-- ==== Sys2Proof/Word.lean ====
section
/-! DEFINITION. The data the machine moves: bytes, the 24-bit colour word, the 9-bit command word,
Colors with exact rational intensities, Patterns (25 Colors in raster order) and Animations. -/

namespace Sys2Proof

/-- A byte is an unsigned 8-bit integer (R13). -/
abbrev Byte := BitVec 8

/-- A word is an unsigned 24-bit integer (R13, R97). -/
abbrev Word := BitVec 24

/-- A command word is 9 bits, `cmd[8:0]` (R91). -/
abbrev CmdWord := BitVec 9

/-- The three components of a Color (R8 `N_CHANNELS`, R18). -/
inductive Channel where
  | red
  | green
  | blue
deriving DecidableEq, Repr

/-- A Color: three intensities, each an exact rational, not necessarily in [0, 1] (R21, R31; D3). -/
structure Color where
  r : Rat
  g : Rat
  b : Rat
deriving DecidableEq, Repr

/-- The black Color (0, 0, 0). -/
def Color.black : Color := ⟨0, 0, 0⟩

/-- The intensity of one channel of a Color. -/
def Color.channel (c : Color) : Channel → Rat
  | .red => c.r
  | .green => c.g
  | .blue => c.b

/-- A Pattern (a fully populated Matrix): the 25 Colors of the 5×5 grid in raster order,
cell `c = 5·row + col` (R8, R14, R18). -/
abbrev Pattern := Vector Color 25

/-- The all-black Matrix `ZERO_MATRIX` (R152, R180). -/
def Pattern.zero : Pattern := Vector.ofFn fun _ => Color.black

/-- An Animation: the live frames in order. Its length is the frame count; slots at and above the
count are left out of the type, as R74 permits. -/
abbrev Animation := List Pattern

/-- A wiring order: entry `p` is the raster cell of the LED at chain position `p` (R14, R70). -/
abbrev Wiring := Vector (Fin 25) 25

/-- `ROUND_MODE` (R9, R129). -/
inductive RoundMode where
  | floor
  | nearest
deriving DecidableEq, Repr

/-- `CHANNEL_ORDER`: the channel in bits 23:16, in bits 15:8 and in bits 7:0 of the word (R97). -/
structure ChannelOrder where
  first : Channel
  second : Channel
  third : Channel
deriving DecidableEq, Repr

end Sys2Proof
end

