-- ==== Sys2Proof/Config.lean ====
section
/-! DEFINITION. What an instance of U4NPX fixes: the constants of R8 and the parameters of R9 as
data (their constraints and defaults are in Machine/Parameters.lean), and the free values of the
LED chain (U3, U4, U5, U15). -/

namespace Sys2Proof

/-! ### Fixed by the source (R8) -/

def Config.rows : Nat := 5
def Config.cols : Nat := 5
def Config.nCells : Nat := 25
def Config.frameCap : Nat := 5
def Config.nDigits : Nat := 10
def Config.bitsPerChannel : Nat := 8
def Config.nChannels : Nat := 3
def Config.wordBits : Nat := 24

/-- `DEBOUNCE_MS` (R8, R264): the least time in milliseconds between two presses of one button that
count as two. Environment only: the buttons are outside the core (R6, R260), and no step reads it. -/
def Config.debounceMs : Nat := 200

/-- `ACCEPT_LAT` (R9, R221): a command begins one tick after its acceptance. -/
def Config.acceptLat : Nat := 1

/-! ### Parameters (R9) -/

/-- The parameters as data. Every one is an argument of the model: it stands in State and no
step changes it, so a claim about every state is a claim about every admissible instance. -/
structure ParamData where
  roundMode : RoundMode
  channelOrder : ChannelOrder
  /-- `TICK_NS`: no rule's result depends on it. -/
  tickNs : Nat
  tBit : Nat
  t0h : Nat
  t1h : Nat
  tLatch : Nat
  tFrame : Nat
  wiring : Wiring
  glyphRom : Vector Pattern 10
  animRom : List Animation
deriving DecidableEq, Repr

/-! ### Free values (93_implementation_defined.md, treatment "any value")

The first argument of each is the number of the draw. The others are what the value may depend on. -/

/-- U3: the word LED `p`, which showed `old`, shows at power-up and at a tick of reset. -/
opaque Config.unknownDisplay : Nat → (p : Nat) → (old : Word) → Word

/-- U3: the bits the chain, which held `old`, holds at power-up and at a tick of reset. -/
opaque Config.unknownBits : Nat → (old : List Bool) → List Bool

/-- U4: the bit appended for a high pulse that is neither `T0H` nor `T1H` ticks long. -/
opaque Config.offNominalBit : Nat → (width : Nat) → Bool

/-- U4, U15: whether the chain latches at a tick of a low run longer than the last symbol's low part
and shorter than `T_LATCH`. -/
opaque Config.earlyLatch : Nat → (run : Nat) → Bool

/-- U5: what an LED that showed `old` shows after a latch that found part of a word in it. -/
opaque Config.partialWord : Nat → (bits : List Bool) → (old : Word) → Word

end Sys2Proof
end

