-- ==== Sys2Proof/Machine/Catalog.lean ====
section
/-! DEFINITION. The default contents of the OPEN parameters: the digit font (R186), the animation
catalog (R210) and the three named wiring orders (R70). They are the constant tables that
`build_digit_glyphs` (R181) and `build_animation_catalog` (R201) stand for. -/

namespace Sys2Proof.Machine

/-- The Pattern with Color `col` at the cells whose bit of `mask` is 1, black elsewhere. -/
def maskPattern (col : Color) (mask : BitVec 25) : Pattern :=
  Vector.ofFn fun c : Fin 25 => if mask.getLsbD c then col else Color.black

/-- The Pattern with Color `col` at the listed raster cells, black elsewhere. -/
def cellsPattern (col : Color) (cells : List Nat) : Pattern :=
  Vector.ofFn fun c : Fin 25 => if cells.contains c.val then col else Color.black

/-- `LIT` of R186. -/
def glyphColor : Color := ⟨1 / 5, 2 / 5, 3 / 5⟩

/-- The masks of R186, digit 0 first: bit `c` is 1 when raster cell `c` is lit. -/
def glyphMasks : Vector (BitVec 25) 10 :=
  #v[0x0E5294E, 0x0E210C4, 0x0E1390E, 0x0E4390E, 0x084394A,
     0x0E4384E, 0x0E5384E, 0x084210E, 0x0E5394E, 0x0E4394E]

/-- `build_digit_glyphs` (R181): the default `GLYPH_ROM` (R186). -/
def buildDigitGlyphs : Vector Pattern 10 :=
  Vector.ofFn fun d : Fin 10 => maskPattern glyphColor glyphMasks[d]

/-- R210, animation 0 ("burst"). -/
def burst : Animation :=
  [cellsPattern ⟨1, 0, 0⟩ [12],
   cellsPattern ⟨1, 0, 0⟩ [7, 11, 12, 13, 17],
   cellsPattern ⟨1, 0, 0⟩ [6, 7, 8, 11, 13, 16, 17, 18],
   cellsPattern ⟨1, 0, 0⟩ [0, 1, 2, 3, 4, 5, 9, 10, 14, 15, 19, 20, 21, 22, 23, 24],
   cellsPattern ⟨1, 0, 0⟩ (List.range 25)]

/-- R210, animation 1 ("sweep"). -/
def sweep : Animation :=
  [cellsPattern ⟨0, 1, 0⟩ [0, 1, 2, 3, 4],
   cellsPattern ⟨0, 1, 0⟩ [10, 11, 12, 13, 14],
   cellsPattern ⟨0, 1, 0⟩ [20, 21, 22, 23, 24]]

/-- R210, animation 2 ("diagonal"): its Color is out of range on purpose. -/
def diagonal : Animation :=
  [cellsPattern ⟨6 / 5, -1 / 10, 2 / 5⟩ [0, 6, 12, 18, 24]]

/-- `build_animation_catalog` (R201): the default `ANIM_ROM` (R210), `N_ANIM` = 3. -/
def buildAnimationCatalog : List Animation := [burst, sweep, diagonal]

/-- `SERP_TL` (R70), the default of the worked examples. -/
def serpTL : Wiring :=
  #v[0, 1, 2, 3, 4, 9, 8, 7, 6, 5, 10, 11, 12, 13, 14, 19, 18, 17, 16, 15, 20, 21, 22, 23, 24]

/-- `RASTER` (R70). -/
def raster : Wiring :=
  #v[0, 1, 2, 3, 4, 5, 6, 7, 8, 9, 10, 11, 12, 13, 14, 15, 16, 17, 18, 19, 20, 21, 22, 23, 24]

/-- `SERP_BR` (R70). -/
def serpBR : Wiring :=
  #v[24, 23, 22, 21, 20, 15, 16, 17, 18, 19, 14, 13, 12, 11, 10, 5, 6, 7, 8, 9, 4, 3, 2, 1, 0]

end Sys2Proof.Machine
end

