-- ==== Sys2Proof/Machine/Encoder.lean ====
section
/-! DEFINITION. The Color Encoder (spec/40_color_encoder.md): clamp, quantize, pack; when a cell is
lit (R182). It is combinational: it has no state and takes no ticks. -/

namespace Sys2Proof.Machine

/-- R121: clamp to the nearest boundary of [0, 1]. -/
def clamp01 (x : Rat) : Rat :=
  if x < 0 then 0 else if x > 1 then 1 else x

/-- The exact integer a scaled intensity is narrowed to: R122 (`floor`), R129 (`nearest`, ties up). -/
def roundScaled : RoundMode → Rat → Int
  | .floor, y => y.floor
  | .nearest, y => (y + 1 / 2).floor

/-- R122, R129: the byte of an intensity. The scaled value is in 0..255, so narrowing never wraps
(R127). -/
def quantize (mode : RoundMode) (x : Rat) : Byte :=
  BitVec.ofInt 8 (roundScaled mode (255 * clamp01 x))

/-- R120: the colour word of a Color, `X ‖ Y ‖ Z` for `CHANNEL_ORDER` = (X, Y, Z). -/
def encodeColor (mode : RoundMode) (order : ChannelOrder) (c : Color) : Word :=
  quantize mode (c.channel order.first) ++ quantize mode (c.channel order.second) ++
    quantize mode (c.channel order.third)

/-- R182: a Color is lit when its word is not `0x000000`. -/
def lit (mode : RoundMode) (order : ChannelOrder) (c : Color) : Bool :=
  encodeColor mode order c != 0

/-- The intensity `k/255` of a byte: a grid point, on which `quantize` is exact (R124 item 2). -/
def gridIntensity (k : Byte) : Rat := (k.toNat : Rat) / 255

/-- A Color whose word under `order` is `w` (R124 item 2: `encode` is onto). -/
def colorOfWord (order : ChannelOrder) (w : Word) : Color :=
  let byteOf (ch : Channel) : Byte :=
    if ch = order.first then w.extractLsb' 16 8
    else if ch = order.second then w.extractLsb' 8 8
    else w.extractLsb' 0 8
  ⟨gridIntensity (byteOf .red), gridIntensity (byteOf .green), gridIntensity (byteOf .blue)⟩

end Sys2Proof.Machine
end

