-- ==== Sys2Proof/Machine/Parameters.lean ====
section
/-! DEFINITION. The constraints a parameter choice must meet (R9, R14, R70, R141, R183, R184, R202;
U12), the defaults, and the durations derived from the parameters (R9, R158, R230, R320). -/

namespace Sys2Proof

namespace ParamData

/-- `Hi(b)` of R160: ticks a symbol's high part lasts. -/
def hi (p : ParamData) (b : Bool) : Nat := if b then p.t1h else p.t0h

/-- `Lo(b)` of R160: `T_BIT - Hi(b)`. -/
def lo (p : ParamData) (b : Bool) : Nat := p.tBit - p.hi b

/-- `T0L` (R9). -/
def t0l (p : ParamData) : Nat := p.tBit - p.t0h

/-- `T1L` (R9). -/
def t1l (p : ParamData) : Nat := p.tBit - p.t1h

/-- `N_ANIM` (R9). -/
def nAnim (p : ParamData) : Nat := p.animRom.length

/-- `T_TX` (R9, R158): the ticks to send one matrix. -/
def tTx (p : ParamData) : Nat := 25 * 24 * p.tBit

/-- `T_PUSH` (R9, R158): the ticks one push occupies the core. -/
def tPush (p : ParamData) : Nat := p.tTx + p.tLatch

/-- `T_INIT` (R9, R293): the tick at which the core becomes ready. -/
def tInit (p : ParamData) : Nat := p.tLatch + p.tPush

/-- The word of one Color under this instance's mode and order (R120). -/
def encode (p : ParamData) (c : Color) : Word := Machine.encodeColor p.roundMode p.channelOrder c

/-- Two Patterns render identically when every cell has the same word (R183). -/
def sameImage (p : ParamData) (m n : Pattern) : Bool :=
  (List.finRange 25).all fun c => p.encode m[c] == p.encode n[c]

/-- R183: no two digits render identically. -/
def glyphsDistinct (p : ParamData) : Bool :=
  (List.finRange 10).all fun d => (List.finRange 10).all fun e =>
    d == e || !p.sameImage p.glyphRom[d] p.glyphRom[e]

/-- R184: each digit has a lit cell. -/
def glyphsVisible (p : ParamData) : Bool :=
  (List.finRange 10).all fun d => (List.finRange 25).any fun c => p.encode p.glyphRom[d][c] != 0

/-- R14, R70: the wiring is a bijection (an injection of 25 positions into 25 cells). -/
def wiringBijective (p : ParamData) : Bool :=
  (List.finRange 25).all fun i => (List.finRange 25).all fun j =>
    i == j || p.wiring[i] != p.wiring[j]

/-- R9: a permutation of R, G, B. -/
def channelsDistinct (p : ParamData) : Bool :=
  p.channelOrder.first != p.channelOrder.second && p.channelOrder.first != p.channelOrder.third &&
    p.channelOrder.second != p.channelOrder.third

/-- R141, R205, R9: the timing constraints. -/
def timingOk (p : ParamData) : Bool :=
  decide (0 < p.tickNs) && decide (0 < p.t0h) && decide (p.t0h < p.t1h) && decide (p.t1h < p.tBit) &&
    decide (p.t0l < p.tLatch) && decide (p.t1l < p.tLatch) && decide (p.tLatch ≤ p.tFrame)

/-- R202: at most 256 animations of at most 5 frames. -/
def animsOk (p : ParamData) : Bool :=
  decide (p.nAnim ≤ 256) && p.animRom.all fun a => decide (a.length ≤ 5)

/-- The constraints a parameter choice must meet; one that breaks any of them is refused, being no
instance of U4NPX (U12). -/
def admissible (p : ParamData) : Bool :=
  p.channelsDistinct && p.timingOk && p.wiringBijective && p.glyphsDistinct && p.glyphsVisible &&
    p.animsOk

end ParamData

/-- An instance of U4NPX: parameters that meet the constraints. A choice that breaks one cannot be
built, which is how the model refuses it (U12). -/
structure Params extends ParamData where
  ok : toParamData.admissible = true
deriving DecidableEq, Repr

/-- The defaults of R9, with the default catalogs and `WIRING` = `SERP_TL`. -/
def ParamData.default : ParamData where
  roundMode := .floor
  channelOrder := ⟨.green, .red, .blue⟩
  tickNs := 50
  tBit := 25
  t0h := 8
  t1h := 16
  tLatch := 5600
  tFrame := 4000000
  wiring := Machine.serpTL
  glyphRom := Machine.buildDigitGlyphs
  animRom := Machine.buildAnimationCatalog

theorem ParamData.default_admissible : ParamData.default.admissible = true := by decide +kernel

/-- The instance with every parameter at its default. -/
def Params.default : Params := ⟨ParamData.default, ParamData.default_admissible⟩

end Sys2Proof
end

