-- ==== Sys2Proof/Machine/State.lean ====
section
/-! DEFINITION. The state of U4NPX (R20), of its input pins (R29) and of the LED chain that watches
the line (R34), as plain data; what a step can stop with; and the state right after reset (R35). -/

namespace Sys2Proof.Machine

/-- Why a run stops. Safe: the model stops where no rule of the spec gives a step. -/
inductive Fault where
  /-- Raised by the sequencer in `P_BUSY` when R232 gives no step: neither a push nor a delay is
  running, or a delay has ended and `cur` is not a `PLAY` of an existing animation. No run from
  reset reaches it. Safe. -/
  | sequencerStuck
deriving DecidableEq, Repr

/-- Why an instruction has no meaning. No step of this model answers one. -/
inductive Refusal where
  /-- Reserved for an instruction without a meaning: `exec` has none. Safe. -/
  | notModelled (mnemonic : String)
deriving DecidableEq, Repr

/-- The exceptions of R251. -/
inductive Exc where
  /-- `render_digit` outside 0..9 (R188, R253). -/
  | digitRange (value : Int)
  /-- `PLAY i` with `i ≥ N_ANIM` (R203, R254). -/
  | animIndex (i : Byte)
  /-- Reserved; nothing raises it, because the policy is to block (R206, R255). -/
  | reentry
  /-- `initialize` with `hw_avail` = 0 (R143, R252). -/
  | hwUnavailable
deriving DecidableEq, Repr

/-- A decoded command (R19, R92, R93). -/
inductive Command where
  | showdigit (d : BitVec 4)
  | clearchar (ch : Byte)
  | play (i : Byte)
deriving DecidableEq, Repr

/-- The Coordinator's state `coord` (R22). -/
inductive Coord where
  | idle
  | showDigit (d : BitVec 4)
  | showAnim (i : Byte)
deriving DecidableEq, Repr

/-- `phase` (R23): `P_INIT`, `P_READY`, `P_BUSY`, `P_FATAL`. -/
inductive Phase where
  | init
  | ready
  | busy
  | fatal
deriving DecidableEq, Repr

/-- `seq` (R24): `SQ_IDLE`, `SQ_PUSH`, `SQ_DELAY`. -/
inductive SeqState where
  | idle
  | push
  | delay
deriving DecidableEq, Repr

/-- `tx_state` (R25): `TX_IDLE`, `TX_HIGH`, `TX_LOW`, `TX_LATCH`. -/
inductive TxState where
  | idle
  | high
  | low
  | latch
deriving DecidableEq, Repr

/-- `handle` (R27). -/
inductive Handle where
  | none
  | held
deriving DecidableEq, Repr

/-- The serializer's registers (R25, R26). -/
structure Serializer where
  txState : TxState
  /-- Chain position of the word being sent. -/
  pos : Fin 25
  /-- Number of the bit being sent, 23 down to 0. -/
  bitn : Fin 24
  /-- Ticks the current part still has to run after the present tick. -/
  cnt : Nat
  /-- The word being sent. -/
  shreg : Word
  /-- The data line (R26). -/
  dout : Bool
deriving DecidableEq, Repr

/-- The input pins during one tick (R29). -/
structure Pins where
  rst : Bool
  hwAvail : Bool
  cmdValid : Bool
  cmd : CmdWord
deriving DecidableEq, Repr

/-- The LED chain (R34): `CH_BITS`, `DISPLAY`, and what its receiver must remember of the line to
apply R171 and R172, the length of the current high run and of the current low run. -/
structure Chain where
  /-- `CH_BITS`: bits received since the last latch, the first one first. -/
  bits : List Bool
  /-- `DISPLAY[p]` by chain position. -/
  display : Vector Word 25
  /-- Consecutive ticks, the present one last, with `dout` = 1. -/
  hiRun : Nat
  /-- Consecutive ticks, the present one last, with `dout` = 0. -/
  loRun : Nat
deriving DecidableEq, Repr

/-- The whole machine at one tick: the core (R20), the instance's parameters (R9, R11), and the
environment the observation needs (R12, R34): the pins, what the host will drive on them, and the
LED chain. -/
structure State where
  /-- The parameters: an argument of the model, changed by no step. -/
  par : Params
  /-- `FB[0..24]` (R21). -/
  fb : Pattern
  /-- `coord` (R22). -/
  coord : Coord
  /-- `phase` (R23). -/
  phase : Phase
  /-- `cur` (R24). -/
  cur : Option Command
  /-- `frame_idx` (R24). -/
  frameIdx : Nat
  /-- `seq` (R24). -/
  seq : SeqState
  /-- `delay_cnt` (R24). -/
  delayCnt : Nat
  /-- `handle` (R27). -/
  handle : Handle
  /-- `last_rsp` (R28). -/
  lastRsp : BitVec 2
  /-- `rsp_valid` (R29). -/
  rspValid : Bool
  /-- `rsp_code` (R29). -/
  rspCode : BitVec 2
  /-- `tx_state`, `pos`, `bitn`, `cnt`, `shreg`, `dout` (R25, R26). -/
  ser : Serializer
  /-- The input pins during the present tick (R29). -/
  pins : Pins
  /-- The pins at the ticks after the present one, the next tick's first. -/
  incoming : List Pins
  /-- The number of the present tick (R15, R291). -/
  tick : Nat
  /-- `CH_BITS`, `DISPLAY` and the receiver's runs (R34, R171, R172). -/
  chain : Chain
  /-- The model's own: which free value the chain draws next (U3, U4, U5, U15). -/
  freeIdx : Nat
deriving DecidableEq, Repr

/-- The serializer's reset values (R35). -/
def Serializer.reset : Serializer where
  txState := .idle
  pos := 0
  bitn := 23
  cnt := 0
  shreg := 0
  dout := false

/-- R35, R290: every element of the core at its reset value. The parameters are constants and the
chain, the pins and the host are not part of the core. -/
def State.coreReset (s : State) : State :=
  { s with
    fb := Pattern.zero, coord := .idle, phase := .init, cur := none, frameIdx := 0, seq := .idle,
    delayCnt := 0, handle := .none, lastRsp := 0, rspValid := false, rspCode := 0,
    ser := Serializer.reset }

/-- Tick 0 after power-up: the core at its reset values (R35), the default instance, `hw_avail` = 1
and no command presented (DESIGN CHOICE, log 4), and the chain at power-up, whose words and bits
are free values (U3; log 6). -/
def State.reset : State where
  par := Params.default
  fb := Pattern.zero
  coord := .idle
  phase := .init
  cur := none
  frameIdx := 0
  seq := .idle
  delayCnt := 0
  handle := .none
  lastRsp := 0
  rspValid := false
  rspCode := 0
  ser := Serializer.reset
  pins := { rst := false, hwAvail := true, cmdValid := false, cmd := 0 }
  incoming := []
  tick := 0
  chain :=
    { bits := Config.unknownBits 0 []
      display := Vector.ofFn fun p : Fin 25 => Config.unknownDisplay 0 p 0
      hiRun := 0
      loRun := 1 }
  freeIdx := 1

end Sys2Proof.Machine
end

