-- ==== Sys2Proof/Machine/Flags.lean ====
section
/-! DEFINITION. The flags: `cmd_ready`, the 16-bit `STATUS` register and its fields (R23, R28), and
the response codes (R251). All of them are functions of the state. -/

namespace Sys2Proof.Machine

/-- `cmd_ready` = 1 exactly when `phase` = `P_READY` (R23). -/
def State.cmdReady (s : State) : Bool := s.phase == .ready

/-- `STATUS.SHOWING` (R28). -/
def Coord.showing : Coord → Bool
  | .idle => false
  | .showDigit _ => true
  | .showAnim _ => true

/-- `STATUS.KIND` (R28). -/
def Coord.kind : Coord → Bool
  | .idle => false
  | .showDigit _ => false
  | .showAnim _ => true

/-- `STATUS.ID` (R28). -/
def Coord.id : Coord → Byte
  | .idle => 0
  | .showDigit d => d.setWidth 8
  | .showAnim i => i

/-- `STATUS` (R28): `ID` 15:8, reserved 7, `HANDLE` 6, `LAST_RSP` 5:4, `KIND` 3, `SHOWING` 2,
`FATAL` 1, `READY` 0. -/
def State.status (s : State) : BitVec 16 :=
  s.coord.id ++ 0#1 ++ BitVec.ofBool (s.handle == .held) ++ s.lastRsp ++ BitVec.ofBool s.coord.kind ++
    BitVec.ofBool s.coord.showing ++ BitVec.ofBool (s.phase == .fatal) ++ BitVec.ofBool s.cmdReady

/-- `OK` (R251). -/
def rspOk : BitVec 2 := 0

/-- The response code of an exception; `HwUnavailable` makes no response (R251). -/
def Exc.code : Exc → Option (BitVec 2)
  | .digitRange _ => some 1
  | .animIndex _ => some 2
  | .reentry => some 3
  | .hwUnavailable => none

/-- A command is accepted at the present tick exactly when `cmd_valid` and `cmd_ready` are 1 (R30). -/
def State.accepting (s : State) : Bool := s.pins.cmdValid && s.cmdReady

end Sys2Proof.Machine
end

