-- ==== Sys2Proof/Machine/Operands.lean ====
section
/-! DEFINITION. What an operand of a command selects: the store accesses `GlyphRead`, `AnimCount`
and `AnimFrame` (R62, R63), `render_digit` (R187, R188), the words a Matrix is sent as (R69, R146),
and the closed form of a push on the line (R147). -/

namespace Sys2Proof.Machine

/-- `GlyphRead(d)` for `d` in 0..9 (R62). -/
def glyphRead (p : Params) (d : Fin 10) : Pattern := p.glyphRom[d]

/-- `render_digit` (R187): the digit's Pattern, or the contract violation `DigitRange`; the value
is never clamped or wrapped (R188). -/
def renderDigit (p : Params) (value : Int) : Except Exc Pattern :=
  if h : 0 ≤ value ∧ value ≤ 9 then .ok (glyphRead p ⟨value.toNat, by omega⟩)
  else .error (.digitRange value)

/-- The animation an index names, if it names one (R63, R203). -/
def animation (p : Params) (i : Byte) : Option Animation := p.animRom[i.toNat]?

/-- `AnimCount(i)` (R63). -/
def animCount (p : Params) (i : Byte) : Option Nat := (animation p i).map List.length

/-- `AnimFrame(i, k)` (R63): no value at or above the frame count (R74, R207). -/
def animFrame (p : Params) (i : Byte) (k : Nat) : Option Pattern :=
  (animation p i).bind fun a => a[k]?

/-- `W[p] = encode(FB[WIRING(p)])` (R64, R69, R146). -/
def frameWord (p : Params) (fb : Pattern) (pos : Fin 25) : Word :=
  p.encode fb[p.wiring[pos]]

/-- The 24 bits of a word in the order they are sent, bit 23 first (R69, R97). -/
def wordBits (w : Word) : List Bool := (List.range 24).map fun j => w.getLsbD (23 - j)

/-- The 600 bits of a frame in the order they are sent (R69). -/
def frameBits (p : Params) (fb : Pattern) : List Bool :=
  (List.finRange 25).flatMap fun pos => wordBits (frameWord p fb pos)

/-- The word whose bit 23 is the first of 24 received bits (R172). -/
def wordOfBits (bits : List Bool) : Word :=
  bits.foldl (fun acc b => acc <<< 1 ||| (BitVec.ofBool b).setWidth 24) 0

/-- Bit number `n` of a frame: bit `23 − (n mod 24)` of `W[n div 24]` (R69). -/
def frameBit (p : Params) (fb : Pattern) (n : Nat) : Bool :=
  (frameWord p fb (Fin.ofNat 25 (n / 24))).getLsbD (23 - n % 24)

/-- The closed form of R147: `dout` at tick `t0 + k` of a push of `fb`. -/
def pushWave (p : Params) (fb : Pattern) (k : Nat) : Bool :=
  if k < p.tTx then decide (k % p.tBit < p.hi (frameBit p fb (k / p.tBit))) else false

/-- One line symbol as the level of `dout` at each of its ticks (R98). -/
def symbolTicks (p : ParamData) (b : Bool) : List Bool :=
  List.replicate (p.hi b) true ++ List.replicate (p.lo b) false

/-- The chain position of a raster cell, `WIRING⁻¹(c)` (R34, R70). -/
def wiringInv (w : Wiring) (c : Fin 25) : Option (Fin 25) :=
  (List.finRange 25).find? fun p => w[p] == c

end Sys2Proof.Machine
end

