-- ==== Sys2Proof/Machine/Serializer.lean ====
section
/-! DEFINITION. The transmission state machine (R160): words become timed pulses on `dout`. -/

namespace Sys2Proof.Machine

/-- Bit `n` of `w` set to `b`. -/
def setBit (w : Word) (n : Nat) (b : Bool) : Word :=
  if b then w ||| (1#24 <<< n) else w &&& ~~~(1#24 <<< n)

/-- Put `b` on the line position: bit `bitn` of `shreg` is the bit on the line (R25). -/
def Serializer.putBit (b : Bool) (r : Serializer) : Serializer :=
  { r with shreg := setBit r.shreg r.bitn b }

/-- The first tick of the symbol for bit `bitn` of `shreg` (R98, R160): `dout` rises and stays high
for `Hi` ticks, this one included. -/
def Serializer.beginSymbol (p : Params) (r : Serializer) : Serializer :=
  { r with txState := .high, cnt := p.hi (r.shreg.getLsbD r.bitn) - 1, dout := true }

/-- The first tick of a word (R160): the word is loaded and the symbol of its bit 23 begins. -/
def Serializer.loadWord (p : Params) (w : Word) (r : Serializer) : Serializer :=
  ({ r with shreg := w, bitn := 23 } : Serializer).beginSymbol p

/-- `tx_last` (R160): the present tick is the push's last. -/
def Serializer.txLast (r : Serializer) : Bool := r.txState == .latch && r.cnt == 0

/-- The registers after one tick, before the output equation (R160). `fb` is the Matrix whose words
are sent: the one the sequencer writes in the same step when it raises `start`. -/
def Serializer.next (p : Params) (fb : Pattern) (start : Bool) (r : Serializer) : Serializer :=
  match r.txState with
  | .idle =>
    if start then ({ r with pos := 0 } : Serializer).loadWord p (frameWord p fb 0) else r
  | .high =>
    if 0 < r.cnt then { r with cnt := r.cnt - 1 }
    else { r with txState := .low, cnt := p.lo (r.shreg.getLsbD r.bitn) - 1 }
  | .low =>
    if 0 < r.cnt then { r with cnt := r.cnt - 1 }
    else if 0 < r.bitn.val then
      ({ r with bitn := ⟨r.bitn.val - 1, by omega⟩ } : Serializer).beginSymbol p
    else if h : r.pos.val < 24 then
      ({ r with pos := ⟨r.pos.val + 1, by omega⟩ } : Serializer).loadWord p
        (frameWord p fb ⟨r.pos.val + 1, by omega⟩)
    else { r with pos := 0, bitn := 23, txState := .latch, cnt := p.tLatch - 1 }
  | .latch =>
    if 0 < r.cnt then { r with cnt := r.cnt - 1 } else { r with txState := .idle }

/-- The output equation of R160: `dout` = 1 exactly in `TX_HIGH`. -/
def Serializer.drive (r : Serializer) : Serializer := { r with dout := r.txState == .high }

/-- One tick of the serializer (R160). -/
def Serializer.tick (p : Params) (fb : Pattern) (start : Bool) (r : Serializer) : Serializer :=
  (r.next p fb start).drive

/-- `n` ticks of the serializer without a new `start`. -/
def Serializer.ticks (p : Params) (fb : Pattern) : Nat → Serializer → Serializer
  | 0, r => r
  | n + 1, r => Serializer.ticks p fb n (r.tick p fb false)

end Sys2Proof.Machine
end

