-- ==== Sys2Proof/Syntax.lean ====
section
/-! DEFINITION. The rows of spec/opcode_table.json as syntax: the three commands of the command port
(R94) and, one level down on the wire, the colour word (R97) and the two line symbols (R98). -/

namespace Sys2Proof

/-- One constructor per mnemonic of the opcode table. -/
inductive Instr where
  /-- `SHOWDIGIT d` (R92, R95, R222). -/
  | showdigit (d : BitVec 4)
  /-- `CLEARCHAR ch` (R92, R95, R223). -/
  | clearchar (ch : Byte)
  /-- `PLAY i` (R93, R95, R203). -/
  | play (i : Byte)
  /-- The line symbol of a 0 bit (R98). -/
  | bit0
  /-- The line symbol of a 1 bit (R98). -/
  | bit1
  /-- The colour word `g ‖ r ‖ b`, fields named at the default `CHANNEL_ORDER` (R97). -/
  | word (g r b : Byte)
deriving DecidableEq, Repr

end Sys2Proof
end

