-- ==== Sys2Proof/Machine/Ops.lean ====
section
/-! DEFINITION. The operations the meanings share: one tick of the serializer inside the machine,
starting a push (R146, R232 `StartPush`), clearing (R152), completing a command (R229, R232
`Complete`), accepting one (R221), and taking an exception (R256). -/

namespace Sys2Proof.Machine

/-- The serializer makes its own step beside the sequencer's (R160, R232). -/
def State.serStep (start : Bool) (s : State) : State :=
  { s with ser := s.ser.tick s.par s.fb start }

/-- `StartPush(M)` (R232): the Matrix goes to `FB`, the sequencer waits for the push, and `start` is
raised in the same step, so that the push's first tick is the next one. -/
def startPush (m : Pattern) (s : State) : State :=
  State.serStep true { s with fb := m, seq := .push }

/-- `clear` (R152): a push of the all-zero Matrix. -/
def clear (s : State) : State := startPush Pattern.zero s

/-- `Complete(code)` (R229, R232): the one-tick response, and the core is ready. -/
def complete (code : BitVec 2) (s : State) : State :=
  { s with
    rspValid := true, rspCode := code, lastRsp := code, phase := .ready, cur := none, seq := .idle,
    frameIdx := 0 }

/-- A command begins to execute (R221). -/
def accept (c : Command) (s : State) : State :=
  { s with phase := .busy, cur := some c, frameIdx := 0 }

/-- Taking an exception (R256): a contract violation ends the command with its response and writes
nothing else; `HwUnavailable` leaves the core in `P_FATAL` without a response (R143, R252). Nothing
is saved, no mask changes and control goes nowhere, so there is no return instruction either: after
a contract violation the core is ready, and out of `P_FATAL` only `rst` leads (R257). -/
def takeException (e : Exc) (s : State) : State :=
  match e.code with
  | some code => complete code s
  | none => { s with phase := .fatal }

/-- At the start of every step `rsp_valid` and `rsp_code` fall back to 0 (R232). -/
def clearResponse (s : State) : State := { s with rspValid := false, rspCode := 0 }

/-- The command an instruction of the command port is. -/
def Command.instr : Command → Instr
  | .showdigit d => .showdigit d
  | .clearchar ch => .clearchar ch
  | .play i => .play i

end Sys2Proof.Machine
end

