-- ==== Sys2Proof/Machine/Animation.lean ====
section
/-! DEFINITION. PLAY (spec/43_animation_engine.md): the step from the acceptance tick to the first
tick of execution; the frames after the first are the sequencer's. -/

namespace Sys2Proof.Machine

/-- `PLAY i` (R203, R204, R208): an index that names no animation takes the exception `AnimIndex`;
an animation without frames completes at once; otherwise frame 0 is pushed and `coord` becomes
`ShowAnim(i)`. -/
def execPlay (i : Byte) (s : State) : Host.Outcome State Fault Refusal :=
  match animation s.par i with
  | none => .next (State.serStep false (takeException (.animIndex i) s))
  | some [] => .next (State.serStep false (complete rspOk s))
  | some (frame :: _) => .next (startPush frame { accept (.play i) s with coord := .showAnim i })

end Sys2Proof.Machine
end

