-- ==== Sys2Proof/Machine/Coordinator.lean ====
section
/-! DEFINITION. SHOWDIGIT and CLEARCHAR (spec/44_coordinator.md). A meaning is the step from the
command's acceptance tick to its first tick of execution; the ticks of the push that follow are the
sequencer's and the serializer's. -/

namespace Sys2Proof.Machine

/-- `SHOWDIGIT d` (R222): the glyph is pushed and `coord` becomes `ShowDigit(d)`. A value outside
0..9, which no command word holds, takes the exception `DigitRange` (R188). -/
def execShowdigit (d : BitVec 4) (s : State) : Host.Outcome State Fault Refusal :=
  match renderDigit s.par d.toNat with
  | .ok glyph => .next (startPush glyph { accept (.showdigit d) s with coord := .showDigit d })
  | .error e => .next (State.serStep false (takeException e s))

/-- `CLEARCHAR ch` (R223): the matrix is cleared and `coord` becomes `Idle`, whatever `ch`. -/
def execClearchar (ch : Byte) (s : State) : Host.Outcome State Fault Refusal :=
  .next (clear { accept (.clearchar ch) s with coord := .idle })

end Sys2Proof.Machine
end

