-- ==== Sys2Proof/Machine/Line.lean ====
section
/-! DEFINITION. WORD, BIT0 and BIT1: what the wire carries (R97, R98). A meaning is the step into the
first tick of the word or symbol on `dout`; the serializer's later ticks carry it to its end
(R160). The sequencer waits meanwhile. -/

namespace Sys2Proof.Machine

/-- `WORD` (R97, R160): the serializer loads `g ‖ r ‖ b` and begins the symbol of its bit 23. -/
def execWord (g r b : Byte) (s : State) : Host.Outcome State Fault Refusal :=
  .next { s with ser := s.ser.loadWord s.par (g ++ r ++ b) }

/-- `BIT0` (R98): bit `bitn` of the word on the line is 0 and its symbol begins. -/
def execBit0 (s : State) : Host.Outcome State Fault Refusal :=
  .next { s with ser := (s.ser.putBit false).beginSymbol s.par }

/-- `BIT1` (R98): bit `bitn` of the word on the line is 1 and its symbol begins. -/
def execBit1 (s : State) : Host.Outcome State Fault Refusal :=
  .next { s with ser := (s.ser.putBit true).beginSymbol s.par }

end Sys2Proof.Machine
end

