-- ==== Sys2Proof/Machine/Dispatch.lean ====
section
/-! DEFINITION. The meaning of each instruction of the opcode table. -/

namespace Sys2Proof.Machine

def exec (i : Instr) (s : State) : Host.Outcome State Fault Refusal :=
  match i with
  | .showdigit d => Sys2Proof.Machine.execShowdigit d s
  | .clearchar ch => Sys2Proof.Machine.execClearchar ch s
  | .play idx => Sys2Proof.Machine.execPlay idx s
  | .bit0 => Sys2Proof.Machine.execBit0 s
  | .bit1 => Sys2Proof.Machine.execBit1 s
  | .word g r b => Sys2Proof.Machine.execWord g r b s

end Sys2Proof.Machine
end

