-- ==== Sys2Proof/WellFormed.lean ====
section
/-! DEFINITION. Which terms are instructions: the operand ranges of R92 and R95. -/

namespace Sys2Proof

/-- The codes of the ASCII digits, `0x30` to `0x39` (R92). -/
def isDigitCode (ch : Byte) : Bool := decide (0x30#8 ≤ ch) && decide (ch ≤ 0x39#8)

/-- `SHOWDIGIT` takes a digit 0..9 and `CLEARCHAR` a code that is no digit's (R92, R95). `PLAY`
takes every index (R93), a colour word every three bytes (R97), a line symbol nothing. -/
def Instr.wellFormed : Instr → Bool
  | .showdigit d => decide (d ≤ 9#4)
  | .clearchar ch => !isDigitCode ch
  | .play _ => true
  | .bit0 => true
  | .bit1 => true
  | .word _ _ _ => true

end Sys2Proof
end

