-- ==== Sys2Proof/Decode.lean ====
section
/-! DEFINITION. Decoding and encoding (spec/30_encoding.md). Three things are encoded and not to be
confused: the command word at the port (R91 to R95), the colour word on the wire (R97) and the line
symbol on the wire (R98). `Code` says which one a pattern of bits is. -/

namespace Sys2Proof

/-- A pattern of bits, with the place it stands in. -/
inductive Code where
  /-- `cmd[8:0]` at the command port (R91). -/
  | command (w : CmdWord)
  /-- The 24 bits of a colour word (R97). -/
  | colour (w : Word)
  /-- The 25 levels of a line symbol at the default timing, the first tick's in bit 24 (R98). -/
  | symbol (w : BitVec 25)
deriving DecidableEq, Repr

/-- Why bytes are no instruction. -/
inductive DecodeError where
  /-- Not the length of any of the three encodings. -/
  | badLength
  /-- A bit above the encoding's width is set. -/
  | excessBits
  /-- 25 levels that are neither `BIT0` nor `BIT1` (R98). -/
  | noSymbol
deriving DecidableEq, Repr

/-! ### Fields -/

/-- `TAG` (R91). -/
def tagBit (w : CmdWord) : Bool := w.getLsbD 8

/-- `CH` and `IDX` (R91): bits 7:0. -/
def payload (w : CmdWord) : Byte := w.extractLsb' 0 8

/-- `BIT0` at the default timing: 8 high ticks, then 17 low (R98). -/
def bit0Levels : BitVec 25 := 0b1111111100000000000000000

/-- `BIT1` at the default timing: 16 high ticks, then 9 low (R98). -/
def bit1Levels : BitVec 25 := 0b1111111111111111000000000

/-! ### Decoding -/

/-- R92 to R95: every command word decodes. -/
def decodeCommand (w : CmdWord) : Instr :=
  if tagBit w then .play (payload w)
  else if isDigitCode (payload w) then .showdigit ((payload w).extractLsb' 0 4)
  else .clearchar (payload w)

/-- R97: every colour word decodes. -/
def decodeColour (w : Word) : Instr :=
  .word (w.extractLsb' 16 8) (w.extractLsb' 8 8) (w.extractLsb' 0 8)

/-- R98: the two symbols, and nothing else. -/
def decodeSymbol (w : BitVec 25) : Except DecodeError Instr :=
  if w = bit0Levels then .ok .bit0
  else if w = bit1Levels then .ok .bit1
  else .error .noSymbol

/-- The instruction a pattern stands for in its place. -/
def decodeCode : Code → Except DecodeError Instr
  | .command w => .ok (decodeCommand w)
  | .colour w => .ok (decodeColour w)
  | .symbol w => decodeSymbol w

/-- A pattern laid out in bytes, the least significant byte first (DESIGN CHOICE, log 8: the
hardware stores no instruction). The number of bytes says which encoding it is: two for a command
word, three for a colour word, four for a line symbol. -/
def codeOfBytes : List Byte → Except DecodeError Code
  | [b0, b1] =>
    if b1.extractLsb' 1 7 = 0 then .ok (.command ((b1 ++ b0).extractLsb' 0 9)) else .error .excessBits
  | [b0, b1, b2] => .ok (.colour (b2 ++ b1 ++ b0))
  | [b0, b1, b2, b3] =>
    if b3.extractLsb' 1 7 = 0 then .ok (.symbol ((b3 ++ b2 ++ b1 ++ b0).extractLsb' 0 25))
    else .error .excessBits
  | _ => .error .badLength

/-- The decoder, total on any bytes. -/
def decode (bytes : List Byte) : Except DecodeError Instr :=
  match codeOfBytes bytes with
  | .ok c => decodeCode c
  | .error e => .error e

/-! ### Encoding -/

/-- R94, R95, R97, R98: the pattern of an instruction. -/
def encodeCode : Instr → Code
  | .showdigit d => .command (0x030#9 + d.setWidth 9)
  | .clearchar ch => .command (ch.setWidth 9)
  | .play i => .command (0x100#9 + i.setWidth 9)
  | .bit0 => .symbol bit0Levels
  | .bit1 => .symbol bit1Levels
  | .word g r b => .colour (g ++ r ++ b)

/-- Byte `k` of a number of bits, the least significant byte being number 0. -/
def byteAt {n : Nat} (w : BitVec n) (k : Nat) : Byte := w.extractLsb' (8 * k) 8

/-- A pattern in bytes, the least significant byte first. -/
def bytesOfCode : Code → List Byte
  | .command w => [byteAt w 0, byteAt w 1]
  | .colour w => [byteAt w 0, byteAt w 1, byteAt w 2]
  | .symbol w => [byteAt w 0, byteAt w 1, byteAt w 2, byteAt w 3]

/-- The bytes of a well-formed instruction. -/
def encode (i : Instr) : List Byte := bytesOfCode (encodeCode i)

/-! ### The opcode table (R94) -/

/-- One row of the command decode table. -/
structure CommandRow where
  mnemonic : String
  mask : CmdWord
  pattern : CmdWord
deriving DecidableEq, Repr

/-- A word matches a row when `w AND mask` = `match` (R94). -/
def CommandRow.hits (row : CommandRow) (w : CmdWord) : Bool := (w &&& row.mask) == row.pattern

/-- The nine rows of R94. -/
def commandRows : List CommandRow :=
  [⟨"SHOWDIGIT", 0x1F8, 0x030⟩, ⟨"SHOWDIGIT", 0x1FE, 0x038⟩, ⟨"CLEARCHAR", 0x1E0, 0x000⟩,
   ⟨"CLEARCHAR", 0x1F0, 0x020⟩, ⟨"CLEARCHAR", 0x1FE, 0x03A⟩, ⟨"CLEARCHAR", 0x1FC, 0x03C⟩,
   ⟨"CLEARCHAR", 0x1C0, 0x040⟩, ⟨"CLEARCHAR", 0x180, 0x080⟩, ⟨"PLAY", 0x100, 0x100⟩]

/-- The opcode table's name of an instruction. -/
def Instr.mnemonic : Instr → String
  | .showdigit _ => "SHOWDIGIT"
  | .clearchar _ => "CLEARCHAR"
  | .play _ => "PLAY"
  | .bit0 => "BIT0"
  | .bit1 => "BIT1"
  | .word _ _ _ => "WORD"

/-! ### The host's numbering of table words -/

/-- The bytes of an instruction whose bits are `w`, in `n` bytes, the least significant first. -/
def tableBytes (n w : Nat) : List Byte :=
  match n with
  | 0 => []
  | k + 1 => BitVec.ofNat 8 w :: tableBytes k (w / 256)

/-- The instruction the decoder reads from the `nbits` bits `w` of a table row. -/
def decodeTableWord (nbits w : Nat) : Option Instr :=
  match decode (tableBytes ((nbits + 7) / 8) w) with
  | .ok i => some i
  | .error _ => none

end Sys2Proof
end

