-- ==== Sys2Proof/Machine/Chain.lean ====
section
/-! DEFINITION. The LED chain (R170 to R174): environment that watches `dout`. What the spec leaves
to any value there is a free value of Config (U3, U4, U5, U15). -/

namespace Sys2Proof.Machine

/-- R171: the bit of a high pulse of `k` ticks; a width that is neither `T0H` nor `T1H` gives a free
bit (U4). -/
def receivedBit (p : Params) (free k : Nat) : Bool :=
  if k = p.t0h then false else if k = p.t1h then true else Config.offNominalBit free k

/-- R172: what LED `pos` shows after a latch that found the bits `bits`: its complete word, a free
word if it received part of one (U5), its old word if it received nothing. -/
def latchedWord (free : Nat) (bits : List Bool) (pos : Fin 25) (old : Word) : Word :=
  if 24 * (pos.val + 1) ≤ bits.length then wordOfBits ((bits.drop (24 * pos.val)).take 24)
  else if 24 * pos.val < bits.length then Config.partialWord free bits old
  else old

/-- R172: the LEDs apply what they received and the chain waits for a new frame. -/
def Chain.latch (free : Nat) (c : Chain) : Chain :=
  { c with
    display := Vector.ofFn fun pos : Fin 25 => latchedWord free c.bits pos c.display[pos]
    bits := [] }

/-- R172, R173, U4, U15: whether the chain, holding `bits`, latches at a tick whose low run is `n`
ticks long. It must have latched when the run reaches `T_LATCH`; on a shorter run it may as soon as
the low part of the last symbol is over, which is where the latch interval begins (log 12). -/
def latchesAt (p : Params) (free : Nat) (bits : List Bool) (n : Nat) : Bool :=
  decide (p.tLatch ≤ n) || (decide (p.lo (bits.getLastD false) < n) && Config.earlyLatch free n)

/-- The chain at the end of its high run, if it was in one: the pulse becomes a bit (R171). -/
def Chain.endPulse (p : Params) (free : Nat) (c : Chain) : Chain :=
  if c.hiRun = 0 then c
  else { c with bits := c.bits ++ [receivedBit p free c.hiRun], hiRun := 0 }

/-- The chain sees one more tick of the line. -/
def Chain.tick (p : Params) (free : Nat) (dout : Bool) (c : Chain) : Chain :=
  if dout then { c with hiRun := c.hiRun + 1, loRun := 0 }
  else
    let low : Chain := { c.endPulse p free with loRun := c.loRun + 1 }
    if latchesAt p free low.bits low.loRun then
      if low.bits.isEmpty then low else low.latch free
    else low

/-- R35, U3: what the chain holds and shows at a tick of reset is unspecified, so it is any bits and
any words; the levels of the line it has seen stay what they were. `State.enter` lets R171 and R172 act
on these values at that very tick (DESIGN CHOICE, log 6). -/
def Chain.unknown (free : Nat) (c : Chain) : Chain :=
  { c with
    bits := Config.unknownBits free c.bits
    display := Vector.ofFn fun pos : Fin 25 => Config.unknownDisplay free pos c.display[pos] }

/-- `SHOWN[c]` on a board wired as `board` says (R174, R316). -/
def shownOn (board : Wiring) (c : Chain) (cell : Fin 25) : Option Word :=
  (wiringInv board cell).map fun p => c.display[p]

end Sys2Proof.Machine
end

