-- ==== Sys2Proof/Machine/Ports.lean ====
section
/-! DEFINITION. The edge of the core: the pins from one tick to the next (R29, R290, R291), the LED
chain that sees the line at the tick being entered, and how an instruction is put where the next
step runs it. -/

namespace Sys2Proof.Machine

/-- What the host drives at the next tick. When `incoming` lists nothing more it presents nothing
and `hw_avail` keeps its level (DESIGN CHOICE, log 5). -/
def State.nextPins (s : State) : Pins :=
  match s.incoming with
  | p :: _ => p
  | [] => { rst := false, hwAvail := s.pins.hwAvail, cmdValid := false, cmd := 0 }

/-- The core is in the reset state at the tick being entered: `rst` is 1 there, or it is tick 0, the
first tick after one with `rst` = 1 (R35, R290, R291). -/
def State.entersReset (s : State) : Bool := s.pins.rst || s.nextPins.rst

/-- The number of the tick being entered (R291): ticks count from the release of `rst`. -/
def State.nextTick (s : State) : Nat := if s.entersReset then 0 else s.tick + 1

/-- The LED chain as the tick being entered finds it: as it was, but any bits and any words at a tick
in the reset state (R35, U3). The tick of the chain then acts on them. -/
def State.chainAhead (s : State) : Chain :=
  if s.entersReset then s.chain.unknown s.freeIdx else s.chain

/-- Everything beside the core moves to the tick being entered: `core` is the core there, `s` the
state of the tick left. The chain sees the new level of `dout` (R171, R172), at a tick in the reset
state too: the spec does not say whether R171 and R172 act there on the values R35 leaves open, and
here the values are drawn first and the chain's tick acts on them (DESIGN CHOICE, log 6). -/
def State.enter (s : State) (core : State) : State :=
  { core with
    pins := s.nextPins
    incoming := s.incoming.tail
    tick := s.nextTick
    chain := s.chainAhead.tick s.par s.freeIdx core.ser.dout
    freeIdx := s.freeIdx + 1 }

/-! ### Putting an instruction where the next step runs it -/

/-- The core ready and the command presented, with no reset at this tick or later. -/
def State.present (w : CmdWord) (s : State) : State :=
  { s with
    phase := .ready, handle := .held, seq := .idle, cur := none,
    ser := { s.ser with txState := .idle, dout := false }
    pins := { s.pins with rst := false, cmdValid := true, cmd := w }
    incoming := [] }

/-- The serializer at the last tick of a part, inside a push of the start-up sequence, with no reset
at this tick or later. -/
def State.endingSymbol (s : State) : State :=
  { s with
    phase := .init, handle := .held, seq := .push,
    ser := { s.ser with txState := .low, cnt := 0, dout := false }
    pins := { s.pins with rst := false }
    incoming := [] }

/-- The colour word `w` next on the wire: word 0 ends with this tick, and the cell of chain position
1 holds a Color whose word is `w`. -/
def State.presentWord (w : Word) (s : State) : State :=
  let e := s.endingSymbol
  { e with
    ser := { e.ser with pos := 0, bitn := 0 }
    fb := e.fb.set e.par.wiring[(1 : Fin 25)] (colorOfWord e.par.channelOrder w) }

/-- The bit `b` next on the wire: the symbol of bit 1 ends with this tick and bit 0 is `b`. -/
def State.presentBit (b : Bool) (s : State) : State :=
  let e := s.endingSymbol
  { e with ser := { e.ser with bitn := 1, shreg := setBit e.ser.shreg 0 b } }

/-- The code put where the step fetches it. -/
def State.presentCode (c : Code) (s : State) : State :=
  match c with
  | .command w => s.present w
  | .colour w => s.presentWord w
  | .symbol w =>
    match decodeSymbol w with
    | .ok .bit0 => s.presentBit false
    | .ok .bit1 => s.presentBit true
    | _ => s

end Sys2Proof.Machine
end

