-- ==== Sys2Proof/Machine/Sequencer.lean ====
section
/-! DEFINITION. The sequencer's steps that no command word starts (R232): the start-up sequence
(R293), the rest of a command in execution (R221 to R229, R204, R205), and the ready and fatal phases
without a command. Each takes the state whose response has been cleared. -/

namespace Sys2Proof.Machine

/-- `initialize` (R142, R143): the step from tick 0 to tick 1. On success the leading gap begins, of
which tick 0 is the first tick (R293). -/
def acquireLine (s : State) : State :=
  if s.pins.hwAvail then { s with handle := .held, seq := .delay, delayCnt := s.par.tLatch - 2 }
  else takeException .hwUnavailable s

/-- A step in `P_INIT` (R232, R293). -/
def initTick (s : State) : State :=
  match s.handle with
  | .none => (acquireLine s).serStep false
  | .held =>
    if s.seq = .delay then
      if 0 < s.delayCnt then State.serStep false { s with delayCnt := s.delayCnt - 1 } else clear s
    else if s.ser.txLast then State.serStep false { s with seq := .idle, phase := .ready }
    else s.serStep false

/-- What follows the push of a command in execution (R232): an inter-frame delay after a frame of a
`PLAY` (R205), else the response. -/
def afterPush (s : State) : State :=
  match s.cur with
  | some (.play _) => { s with seq := .delay, delayCnt := s.par.tFrame - 1 }
  | _ => complete rspOk s

/-- What follows an inter-frame delay (R204, R207, R232): the next frame, or the response after the
last. Outside a `PLAY` of an existing animation no rule gives a step. -/
def afterDelay (s : State) : Host.Outcome State Fault Refusal :=
  match s.cur with
  | some (.play i) =>
    match animation s.par i with
    | some a =>
      if h : s.frameIdx + 1 < a.length then
        .next (startPush a[s.frameIdx + 1] { s with frameIdx := s.frameIdx + 1 })
      else .next (State.serStep false (complete rspOk s))
    | none => .fault .sequencerStuck
  | _ => .fault .sequencerStuck

/-- A step in `P_BUSY` (R232). -/
def busyTick (s : State) : Host.Outcome State Fault Refusal :=
  match s.seq with
  | .push => .next (State.serStep false (if s.ser.txLast then afterPush s else s))
  | .delay =>
    if 0 < s.delayCnt then .next (State.serStep false { s with delayCnt := s.delayCnt - 1 })
    else afterDelay s
  | .idle => .fault .sequencerStuck

end Sys2Proof.Machine
end

