-- ==== Sys2Proof/Machine/Step.lean ====
section
/-! DEFINITION. One step is one tick of the whole machine (R15, R232): the sequencer, the serializer
beside it, the pins, and the LED chain. -/

namespace Sys2Proof.Machine

/-- The core's step (R232) when neither this tick nor the next is one of reset. In `P_READY` a
presented command is decoded and runs (R30, R221). -/
def coreStep (s : State) : Host.Outcome State Fault Refusal :=
  match s.phase with
  | .init => .next (initTick (clearResponse s))
  | .ready =>
    if s.pins.cmdValid then exec (decodeCommand s.pins.cmd) (clearResponse s)
    else .next ((clearResponse s).serStep false)
  | .busy => busyTick (clearResponse s)
  | .fatal => .next ((clearResponse s).serStep false)

/-- The step from one tick to the next. `rst` overrides everything else (R258, R290). -/
def step (s : State) : Host.Outcome State Fault Refusal :=
  if s.entersReset then .next (s.enter s.coreReset)
  else
    match coreStep s with
    | .next t => .next (s.enter t)
    | .fault f => .fault f
    | .refused r => .refused r

/-- `s` with the instruction of `nbits` bits `w` where the next step runs it: a command on the
command port of a ready core, a colour word or a line symbol next on the wire (log 7). -/
def State.withFetchWord (s : State) (nbits w : Nat) : State :=
  match codeOfBytes (tableBytes ((nbits + 7) / 8) w) with
  | .ok c => s.presentCode c
  | .error _ => s

end Sys2Proof.Machine
end

