-- ==== Sys2Proof/Machine/Script.lean ====
section
/-! DEFINITION. The textual syntax of commands and the host that plays a script (R102, R103). The
host is environment: it drives `incoming`, and the core knows nothing of it. -/

namespace Sys2Proof.Machine

/-- One assembler line (R102) or pseudo-instruction (R103). -/
inductive AsmLine where
  | char (v : Nat)
  | showdigit (d : Nat)
  | clearchar (v : Nat)
  | play (i : Nat)
  | clear
  | digit (d : Nat)
deriving DecidableEq, Repr

/-- `CHAR v` (R102). -/
def asmChar (v : Nat) : Option CmdWord :=
  if v ≤ 255 then some (BitVec.ofNat 9 v) else none

/-- `SHOWDIGIT d` (R102). -/
def asmDigit (d : Nat) : Option CmdWord :=
  if d ≤ 9 then some (BitVec.ofNat 9 (0x030 + d)) else none

/-- `CLEARCHAR v` (R102): a digit's code is refused. -/
def asmClearchar (v : Nat) : Option CmdWord :=
  if 0x30 ≤ v ∧ v ≤ 0x39 then none else asmChar v

/-- `PLAY i` (R102). -/
def asmPlay (i : Nat) : Option CmdWord :=
  if i ≤ 255 then some (BitVec.ofNat 9 (0x100 + i)) else none

/-- The command word of a line, or none where the assembler refuses (R102, R103). -/
def assemble : AsmLine → Option CmdWord
  | .char v => asmChar v
  | .showdigit d => asmDigit d
  | .clearchar v => asmClearchar v
  | .play i => asmPlay i
  | .clear => asmClearchar 0x20
  | .digit d => asmDigit d

/-- What a script has the host do: present a command word, or a directive (R103). -/
inductive HostOp where
  | command (w : CmdWord)
  /-- Hold `rst` = 1 for one tick, then release it. -/
  | reset
  /-- Present nothing until the response of the command before has been seen. -/
  | wait
  /-- Present the next command from tick `t` on. -/
  | atTick (t : Nat)
deriving DecidableEq, Repr

/-- A host in the course of a script. -/
structure ScriptHost where
  /-- What is still to be done; a command stays until it is accepted (R30). -/
  ops : List HostOp
  /-- How many of its accepted commands have not had their response seen. Responses come in the order
  of acceptance (R229), so at 0 the command before has had its own. -/
  pending : Nat
  /-- The first of `ops` is a command and on the port at the present tick. -/
  presenting : Bool
  /-- `HW_AVAIL` (R9), an argument: the level of `hw_avail` the host drives at every tick. R103 does not
  say (DESIGN CHOICE, log 21). -/
  hwAvail : Bool
deriving DecidableEq, Repr

/-- The host at the start of a script. -/
def ScriptHost.start (hwAvail : Bool) (ops : List HostOp) : ScriptHost :=
  { ops := ops, pending := 0, presenting := false, hwAvail := hwAvail }

/-- The pins of a host that presents nothing. -/
def idlePins (hwAvail : Bool) : Pins :=
  { rst := false, hwAvail := hwAvail, cmdValid := false, cmd := 0 }

/-- What the host sees at a tick: first the response of an earlier command (R229), then the acceptance
of the command it presents (R30); one tick may bring both (R258). -/
def ScriptHost.observe (s : State) (h : ScriptHost) : ScriptHost :=
  let seen := if s.rspValid then h.pending - 1 else h.pending
  if h.presenting && s.accepting then
    { h with ops := h.ops.tail, pending := seen + 1, presenting := false }
  else { h with pending := seen }

/-- What a host that still has `ops` to do drives at tick `next`, `pending` of its commands being
without a response, and the host there. A reset abandons every command before it. -/
def scriptDrive (hwAvail : Bool) (next pending : Nat) : List HostOp → Pins × ScriptHost
  | [] => (idlePins hwAvail, ⟨[], pending, false, hwAvail⟩)
  | .command w :: rest =>
    ({ idlePins hwAvail with cmdValid := true, cmd := w },
      ⟨.command w :: rest, pending, true, hwAvail⟩)
  | .reset :: rest => ({ idlePins hwAvail with rst := true }, ⟨rest, 0, false, hwAvail⟩)
  | .wait :: rest =>
    if pending = 0 then scriptDrive hwAvail next pending rest
    else (idlePins hwAvail, ⟨.wait :: rest, pending, false, hwAvail⟩)
  | .atTick t :: rest =>
    if t ≤ next then scriptDrive hwAvail next pending rest
    else (idlePins hwAvail, ⟨.atTick t :: rest, pending, false, hwAvail⟩)

/-- What the host drives at the tick after one in which it saw `s`, and the host there. -/
def hostDrive (s : State) (h : ScriptHost) : Pins × ScriptHost :=
  let h' := h.observe s
  scriptDrive h'.hwAvail (if s.pins.rst then 0 else s.tick + 1) h'.pending h'.ops

/-- `n` ticks of the machine with a host that plays a script. -/
def runScript : Nat → ScriptHost → State → Host.Outcome State Fault Refusal
  | 0, _, s => .next s
  | n + 1, h, s =>
    let (p, h') := hostDrive s h
    match step { s with incoming := [p] } with
    | .next t => runScript n h' t
    | .fault f => .fault f
    | .refused r => .refused r

end Sys2Proof.Machine
end

