-- ==== Sys2Proof/Machine/Observe.lean ====
section
/-! DEFINITION. The observation (R12): what a claim about U4NPX may speak of at one tick. -/

namespace Sys2Proof.Machine

/-- What the outside sees during one tick (R12). -/
structure Observation where
  dout : Bool
  cmdReady : Bool
  rspValid : Bool
  rspCode : BitVec 2
  status : BitVec 16
  display : Vector Word 25
deriving DecidableEq, Repr

/-- The observation of a state. `SHOWN` is `shownOn` of its `DISPLAY`. -/
def State.observe (s : State) : Observation where
  dout := s.ser.dout
  cmdReady := s.cmdReady
  rspValid := s.rspValid
  rspCode := s.rspCode
  status := s.status
  display := s.chain.display

/-- `SHOWN[c]` on the board the instance is wired for (R34, R174). -/
def State.shown (s : State) (c : Fin 25) : Option Word := shownOn s.par.wiring s.chain c

/-- A raster cell is lit on the display (R174). -/
def State.shownLit (s : State) (c : Fin 25) : Bool :=
  match s.shown c with
  | some w => w != 0
  | none => false

end Sys2Proof.Machine
end

