-- ==== Sys2Proof/Safety.lean ====
section
/-! DEFINITION. What counts as a good run, in the terms claims use: the fatal phase (R143, R252), the
control invariant of the core (R22 to R27, R36, R37), and the invariant of the line and the LED chain
(R36, R156, R175). -/

namespace Sys2Proof.Machine

/-- R143, R252: a run that reaches `P_FATAL` is a faulted run, and no claim about the display holds
of it. -/
def State.faulted (s : State) : Bool := s.phase == .fatal

/-- `n` steps, stopping at the first fault or refusal. -/
def steps : Nat → State → Host.Outcome State Fault Refusal
  | 0, s => .next s
  | n + 1, s =>
    match step s with
    | .next t => steps n t
    | .fault f => .fault f
    | .refused r => .refused r

/-- A good run of `n` steps: it goes on, and no state of it is faulted (R143, R252). The spec does not
say whether a sequence of steps that goes through `P_FATAL` and leaves it by `rst` is one run; here
it is, and is not good (DESIGN CHOICE, log 23). -/
def safeRun : Nat → State → Bool
  | 0, s => !s.faulted
  | n + 1, s =>
    !s.faulted &&
      match step s with
      | .next t => safeRun n t
      | .fault _ => false
      | .refused _ => false

/-- The bit on the line (R25). -/
def State.lineBit (s : State) : Bool := s.ser.shreg.getLsbD s.ser.bitn

/-- The last bit of the frame of `FB`: bit 0 of the word at chain position 24 (R69). -/
def State.lastBit (s : State) : Bool := (frameWord s.par s.fb 24).getLsbD 0

/-- The image the Coordinator's state names while no command runs (R36 items 5 and 6). -/
def coordImage (p : Params) : Coord → Option Pattern
  | .idle => some Pattern.zero
  | .showDigit d => if h : d.toNat < 10 then some p.glyphRom[d.toNat] else none
  | .showAnim i => (animation p i).bind List.getLast?

/-- The serializer's registers are inside their ranges, and the word on the line is the one of its
chain position (R25, R37, R38). -/
def State.serializerOk (s : State) : Prop :=
  match s.ser.txState with
  | .idle => s.ser.pos = 0 ∧ s.ser.bitn = 23 ∧ s.ser.cnt = 0
  | .high => s.ser.cnt < s.par.hi s.lineBit ∧ s.ser.shreg = frameWord s.par s.fb s.ser.pos
  | .low => s.ser.cnt < s.par.lo s.lineBit ∧ s.ser.shreg = frameWord s.par s.fb s.ser.pos
  | .latch => s.ser.pos = 0 ∧ s.ser.bitn = 23 ∧ s.ser.cnt < s.par.tLatch

/-- What each phase fixes (R23, R24, R27, R36 items 2 to 4, R293). -/
def State.phaseOk (s : State) : Prop :=
  match s.phase with
  | .init => s.cur = none ∧ s.coord = .idle ∧ s.lastRsp = 0 ∧ (s.handle = .held ↔ s.seq ≠ .idle)
  | .ready => s.cur = none ∧ s.handle = .held ∧ s.seq = .idle
  | .busy =>
    s.handle = .held ∧ s.seq ≠ .idle ∧ s.cur ≠ none ∧
      (s.seq = .delay → ∃ i, s.cur = some (.play i))
  | .fatal =>
    s.cur = none ∧ s.coord = .idle ∧ s.lastRsp = 0 ∧ s.handle = .none ∧ s.seq = .idle

/-- What the command in execution fixes, and what `coord` says of `FB` (R22, R24, R36 items 5 to 7). -/
def State.commandOk (s : State) : Prop :=
  match s.cur with
  | none => s.frameIdx = 0 ∧ coordImage s.par s.coord = some s.fb
  | some (.showdigit d) =>
    s.frameIdx = 0 ∧ s.coord = .showDigit d ∧ coordImage s.par s.coord = some s.fb
  | some (.clearchar ch) =>
    s.frameIdx = 0 ∧ s.coord = .idle ∧ isDigitCode ch = false ∧ coordImage s.par s.coord = some s.fb
  | some (.play i) => s.coord = .showAnim i ∧ animFrame s.par i s.frameIdx = some s.fb

/-- The response registers (R29, R229, R251): a response is given only as the core becomes ready, it
is mirrored in `last_rsp`, and no code but 0 and 2 appears. -/
def State.responseOk (s : State) : Prop :=
  (s.rspValid = true → s.phase = .ready ∧ s.rspCode = s.lastRsp) ∧
    (s.rspValid = false → s.rspCode = 0) ∧ (s.lastRsp = 0 ∨ s.lastRsp = 2)

/-- The control invariant: it holds at reset and every step keeps it (R36). -/
structure CoreInv (s : State) : Prop where
  dout_iff : s.ser.dout = true ↔ s.ser.txState = .high
  push_iff : s.seq = .push ↔ s.ser.txState ≠ .idle
  serializer : s.serializerOk
  phases : s.phaseOk
  commands : s.commandOk
  response : s.responseOk
  delay_le : s.delayCnt ≤ s.par.tFrame

/-- Every LED shows the word of its cell of `FB` (R175). -/
def State.showsFrame (s : State) : Prop :=
  ∀ p : Fin 25, s.chain.display[p] = frameWord s.par s.fb p

/-- The line while nothing is sent: how long it has been low (R36 items 2 and 3, R156, R205, R295),
and what the LEDs show. -/
def State.quietOk (s : State) : Prop :=
  match s.phase with
  | .init => s.tick < s.chain.loRun ∧ (s.handle = .held → s.par.tLatch ≤ s.chain.loRun + s.delayCnt)
  | .fatal => s.tick < s.chain.loRun
  | .ready => s.par.lo s.lastBit + s.par.tLatch < s.chain.loRun ∧ s.showsFrame
  | .busy =>
    s.chain.loRun + s.delayCnt = s.par.lo s.lastBit + s.par.tLatch + s.par.tFrame ∧ s.showsFrame

/-- What the chain has received of the frame in transmission (R171, R172, R175). -/
def State.receptionOk (s : State) : Prop :=
  match s.ser.txState with
  | .idle => s.quietOk
  | .high =>
    s.chain.bits = (frameBits s.par s.fb).take (24 * s.ser.pos.val + (23 - s.ser.bitn.val)) ∧
      s.chain.hiRun + s.ser.cnt = s.par.hi s.lineBit
  | .low =>
    s.chain.bits = (frameBits s.par s.fb).take (24 * s.ser.pos.val + (24 - s.ser.bitn.val)) ∧
      s.chain.loRun + s.ser.cnt = s.par.lo s.lineBit
  | .latch =>
    s.chain.loRun + s.ser.cnt = s.par.lo s.lastBit + s.par.tLatch ∧
      (s.chain.bits = frameBits s.par s.fb ∨ (s.chain.bits = [] ∧ s.showsFrame))

/-- The invariant of the line and the chain: it holds at reset and every step from a state with
`CoreInv` keeps it (R36, R156, R175). -/
structure LineInv (s : State) : Prop where
  high_run : s.ser.dout = true → s.chain.loRun = 0 ∧ 0 < s.chain.hiRun
  low_run : s.ser.dout = false → s.chain.hiRun = 0 ∧ 0 < s.chain.loRun
  latched : s.par.tLatch ≤ s.chain.loRun → s.chain.bits = []
  reception : s.receptionOk

/-- The serializer at the first tick of a push of `m` (R160). -/
def pushStart (p : Params) (m : Pattern) : Serializer where
  txState := .high
  pos := 0
  bitn := 23
  cnt := (if (frameWord p m 0).getLsbD 23 then p.t1h else p.t0h) - 1
  shreg := frameWord p m 0
  dout := true

/-- No `rst` at this tick and none among the ticks the host has planned. -/
def State.quietReset (s : State) : Prop :=
  s.pins.rst = false ∧ ∀ p ∈ s.incoming, p.rst = false

end Sys2Proof.Machine
end

