-- ==== Sys2Proof/Certificates/Slice0/Obligations.lean ====
section
/-! DEFINITION. The statements for the provers. Every statement about a state is about every instance
of U4NPX, because the parameters are a field of State. -/

open Sys2Proof Sys2Proof.Machine

/-! ### Encoding -/

/-- Decoding the bytes of a well-formed instruction gives it back (the layout in bytes is the model's,
log 8). -/
def Obligations.EncodeThenDecode : Prop :=
  ∀ i : Instr, i.wellFormed = true → decode (encode i) = .ok i

/-- What decodes is well formed, and its encoding is the bytes it was decoded from (the layout in
bytes is the model's, log 8). -/
def Obligations.DecodeThenEncode : Prop :=
  ∀ (bytes : List Byte) (i : Instr), decode bytes = .ok i →
    i.wellFormed = true ∧ encode i = bytes

/-- R94: exactly one row matches each command word, its mnemonic is the decoded instruction's, and
the three commands have 10, 246 and 256 words. -/
def Obligations.CommandTableDecodes : Prop :=
  (∀ w : CmdWord,
    (commandRows.filter fun row => row.hits w).map CommandRow.mnemonic =
      [(decodeCommand w).mnemonic]) ∧
  ((List.range 512).countP fun n =>
      (decodeCommand (BitVec.ofNat 9 n)).mnemonic == "SHOWDIGIT") = 10 ∧
  ((List.range 512).countP fun n =>
      (decodeCommand (BitVec.ofNat 9 n)).mnemonic == "CLEARCHAR") = 246 ∧
  ((List.range 512).countP fun n =>
      (decodeCommand (BitVec.ofNat 9 n)).mnemonic == "PLAY") = 256

/-- R92, R93: a word with `TAG` = 0 is `SHOWDIGIT` of `CH − 0x30` for the codes `0x30` to `0x39` and
`CLEARCHAR` for every other code; a word with `TAG` = 1 is `PLAY` for every index. -/
def Obligations.OperandsOfCommandWords : Prop :=
  (∀ ch : Byte, 0x30 ≤ ch.toNat → ch.toNat ≤ 0x39 →
    ∃ d : BitVec 4, decodeCommand (0#1 ++ ch) = .showdigit d ∧ d.toNat + 0x30 = ch.toNat) ∧
  (∀ ch : Byte, (ch.toNat < 0x30 ∨ 0x39 < ch.toNat) →
    decodeCommand (0#1 ++ ch) = .clearchar ch) ∧
  (∀ i : Byte, decodeCommand (1#1 ++ i) = .play i)

/-- Words written out from the spec's encodings decode to what they stand for (that a symbol is read at
the default timing, and a word's fields at the default order, is the model's, log 11). -/
def Obligations.SampleWordsDecode : Prop :=
  decodeTableWord 16 0b000110111 = some (.showdigit 7) ∧
  decodeTableWord 16 0b001000001 = some (.clearchar 0x41) ∧
  decodeTableWord 16 0b100000010 = some (.play 2) ∧
  decodeTableWord 24 0b011001100011001110011001 = some (.word 0x66 0x33 0x99) ∧
  decodeTableWord 32 0b1111111100000000000000000 = some .bit0 ∧
  decodeTableWord 32 0b1111111111111111000000000 = some .bit1

/-! ### Color Encoder -/

/-- `quantize` is monotone and separates intensities at least 1/255 apart, in both modes (R124 items
1 and 3, R129). -/
def Obligations.QuantizeOrder : Prop :=
  ∀ (mode : RoundMode) (x y : Rat),
    (x ≤ y → (quantize mode x).toNat ≤ (quantize mode y).toNat) ∧
    (0 ≤ x → y ≤ 1 → 1 / 255 ≤ y - x → (quantize mode x).toNat + 1 ≤ (quantize mode y).toNat)

/-- `quantize` is exact on the grid `k/255`, and `encode` is onto (R124 item 2). -/
def Obligations.QuantizeExactOnGrid : Prop :=
  (∀ (mode : RoundMode) (k : Byte), quantize mode ((k.toNat : Rat) / 255) = k) ∧
  ∀ (p : Params) (w : Word), ∃ c : Color, p.encode c = w

/-- The preimage of every byte, in both modes (R124 item 4). -/
def Obligations.QuantizePreimages : Prop :=
  (∀ (x : Rat) (k : Nat), k ≤ 254 →
    ((quantize .floor x).toNat = k ↔
      (k : Rat) / 255 ≤ clamp01 x ∧ clamp01 x < ((k : Rat) + 1) / 255)) ∧
  (∀ x : Rat, (quantize .floor x).toNat = 255 ↔ 1 ≤ x) ∧
  (∀ x : Rat, (quantize .floor x).toNat = 0 ↔ x < 1 / 255) ∧
  (∀ (x : Rat) (k : Nat), k ≤ 255 →
    ((quantize .nearest x).toNat = k ↔
      (2 * (k : Rat) - 1) / 510 ≤ clamp01 x ∧ clamp01 x < (2 * (k : Rat) + 1) / 510))

/-- R125: each byte of a word is the quantized intensity of its own channel, so Colors that agree in
one channel agree in its byte, whatever the others hold. -/
def Obligations.ChannelIsolation : Prop :=
  ∀ (mode : RoundMode) (order : ChannelOrder) (c c' : Color),
    (encodeColor mode order c).extractLsb' 16 8 = quantize mode (c.channel order.first) ∧
    (encodeColor mode order c).extractLsb' 8 8 = quantize mode (c.channel order.second) ∧
    (encodeColor mode order c).extractLsb' 0 8 = quantize mode (c.channel order.third) ∧
    (c.channel order.first = c'.channel order.first →
      (encodeColor mode order c).extractLsb' 16 8 = (encodeColor mode order c').extractLsb' 16 8) ∧
    (c.channel order.second = c'.channel order.second →
      (encodeColor mode order c).extractLsb' 8 8 = (encodeColor mode order c').extractLsb' 8 8) ∧
    (c.channel order.third = c'.channel order.third →
      (encodeColor mode order c).extractLsb' 0 8 = (encodeColor mode order c').extractLsb' 0 8)

/-- R123: black is the all-zero word and white the maximum word, for either mode and every channel
order. -/
def Obligations.EncodeFixedPoints : Prop :=
  ∀ (mode : RoundMode) (order : ChannelOrder),
    encodeColor mode order ⟨0, 0, 0⟩ = 0x000000 ∧ encodeColor mode order ⟨1, 1, 1⟩ = 0xFFFFFF

/-! ### Catalogs, wiring, image -/

/-- On the wire no two digits send the same frame, no digit sends the all-zero frame, and a cleared
matrix sends nothing else (R183, R184, R152). -/
def Obligations.DigitsDifferOnTheWire : Prop :=
  ∀ p : Params,
    (∀ d e : Fin 10, d ≠ e →
      ∃ pos, frameWord p (glyphRead p d) pos ≠ frameWord p (glyphRead p e) pos) ∧
    (∀ d : Fin 10, ∃ pos, frameWord p (glyphRead p d) pos ≠ 0) ∧
    (∀ pos, frameWord p Pattern.zero pos = 0)

/-- R187: `render_digit` returns the glyph of a value in 0..9 and raises `DigitRange` on any other
integer; and the worked example. -/
def Obligations.RenderDigitAnswers : Prop :=
  ∀ (p : Params) (v : Int),
    (∀ d : Fin 10, v = d.val → renderDigit p v = .ok p.glyphRom[d]) ∧
    (v < 0 ∨ 9 < v → renderDigit p v = .error (.digitRange v)) ∧
    renderDigit Params.default 7 = .ok (cellsPattern glyphColor [1, 2, 3, 8, 13, 18, 23])

/-- If every LED shows the word of its cell, the board shows the Matrix, whatever bijection the
wiring is (R174, R175). -/
def Obligations.ImageOnBoard : Prop :=
  ∀ (p : Params) (fb : Pattern) (c : Chain),
    (∀ pos : Fin 25, c.display[pos] = frameWord p fb pos) →
      ∀ cell : Fin 25, shownOn p.wiring c cell = some (p.encode fb[cell])

/-! ### Serializer -/

/-- A symbol once begun is high for `T0H` or `T1H` ticks and low for the rest of `T_BIT` (R98). -/
def Obligations.SymbolOnTheLine : Prop :=
  ∀ (p : Params) (fb : Pattern) (r : Serializer) (b : Bool) (k : Nat), k < p.tBit →
    (Serializer.ticks p fb k ((r.putBit b).beginSymbol p)).dout =
      decide (k < if b then p.t1h else p.t0h)

/-- A word once loaded is sent bit 23 first, one symbol of `T_BIT` ticks after the other (R97, R99,
R158). -/
def Obligations.WordOnTheLine : Prop :=
  ∀ (p : Params) (fb : Pattern) (r : Serializer) (w : Word) (k : Nat), k < 24 * p.tBit →
    (Serializer.ticks p fb k (r.loadWord p w)).dout =
      decide (k % p.tBit < if w.getLsbD (23 - k / p.tBit) then p.t1h else p.t0h)

/-- The state machine drives the closed form of the waveform at every tick of a push (R147, R160,
R161). -/
def Obligations.PushWaveform : Prop :=
  ∀ (p : Params) (fb : Pattern) (r : Serializer) (k : Nat), r.txState = .idle → k < p.tPush →
    (Serializer.ticks p fb k (r.tick p fb true)).dout = pushWave p fb k

/-- A push lasts exactly `T_PUSH` ticks: `tx_last` is 1 at its last tick and at no other, and the
serializer is idle after it (R147, R158, R160). -/
def Obligations.PushLastsExactly : Prop :=
  ∀ (p : Params) (fb : Pattern) (r : Serializer), r.txState = .idle →
    (∀ k, k < p.tPush →
      ((Serializer.ticks p fb k (r.tick p fb true)).txLast = true ↔ k + 1 = p.tPush)) ∧
    (Serializer.ticks p fb p.tPush (r.tick p fb true)).txState = .idle ∧
    (Serializer.ticks p fb p.tPush (r.tick p fb true)).pos = 0 ∧
    (Serializer.ticks p fb p.tPush (r.tick p fb true)).bitn = 23

/-! ### What each instruction does -/

/-- `BIT0` and `BIT1` begin their symbol: the bit on the line is theirs, `dout` rises, `T0H` or `T1H`
ticks are counted, and nothing else changes (R98, R160; that this step is the rows' meaning is read
from the rules, log 10). -/
def Obligations.BitBegins : Prop :=
  ∀ s : State,
    exec .bit0 s = .next { s with
      ser := { s.ser with
        shreg := setBit s.ser.shreg s.ser.bitn false
        txState := .high, cnt := s.par.t0h - 1, dout := true } } ∧
    exec .bit1 s = .next { s with
      ser := { s.ser with
        shreg := setBit s.ser.shreg s.ser.bitn true
        txState := .high, cnt := s.par.t1h - 1, dout := true } }

/-- `WORD` loads its 24 bits and begins the symbol of bit 23, and nothing else changes (R97, R160; that
this step is the row's meaning is read from the rules, log 10). -/
def Obligations.WordBegins : Prop :=
  ∀ (s : State) (g r b : Byte),
    exec (.word g r b) s = .next { s with
      ser := { s.ser with
        shreg := g ++ r ++ b, bitn := 23
        txState := .high, cnt := (if g.getLsbD 7 then s.par.t1h else s.par.t0h) - 1
        dout := true } }

/-- `SHOWDIGIT d`, `d` in 0..9, with the serializer idle: busy, `coord` = `ShowDigit(d)`, the glyph in
`FB` and its push at its first tick; nothing else changes (R221, R222). -/
def Obligations.ShowdigitPushesGlyph : Prop :=
  ∀ (s : State) (d : BitVec 4) (h : d.toNat < 10), s.ser.txState = .idle →
    exec (.showdigit d) s = .next { s with
      phase := .busy, cur := some (.showdigit d), frameIdx := 0, coord := .showDigit d
      fb := s.par.glyphRom[d.toNat], seq := .push
      ser := pushStart s.par s.par.glyphRom[d.toNat] }

/-- A `SHOWDIGIT` of 10..15, which no command word holds, takes `DigitRange`: response code 1 and no
other effect of the command (R188, R256; that the constructor has such operands is the model's, log
14). -/
def Obligations.ShowdigitOutOfRange : Prop :=
  ∀ (s : State) (d : BitVec 4), 10 ≤ d.toNat → s.ser.txState = .idle →
    exec (.showdigit d) s = .next { s with
      rspValid := true, rspCode := 1, lastRsp := 1, phase := .ready, cur := none, seq := .idle
      frameIdx := 0, ser := { s.ser with dout := false } }

/-- `CLEARCHAR ch`, whatever `ch`, with the serializer idle: busy, `coord` = `Idle`, the all-zero
Matrix in `FB` and its push at its first tick; nothing else changes (R223, R152). -/
def Obligations.ClearcharPushesBlack : Prop :=
  ∀ (s : State) (ch : Byte), s.ser.txState = .idle →
    exec (.clearchar ch) s = .next { s with
      phase := .busy, cur := some (.clearchar ch), frameIdx := 0, coord := .idle
      fb := Pattern.zero, seq := .push, ser := pushStart s.par Pattern.zero }

/-- `PLAY i` of an animation with frames, with the serializer idle: busy, `coord` = `ShowAnim(i)`,
frame 0 in `FB` and its push at its first tick; nothing else changes (R204). -/
def Obligations.PlayPushesFirstFrame : Prop :=
  ∀ (s : State) (i : Byte) (a : Animation) (h : 0 < a.length),
    s.par.animRom[i.toNat]? = some a → s.ser.txState = .idle →
    exec (.play i) s = .next { s with
      phase := .busy, cur := some (.play i), frameIdx := 0, coord := .showAnim i
      fb := a[0], seq := .push, ser := pushStart s.par a[0] }

/-- R208: `PLAY i` of an animation without frames performs no push and no delay, leaves `FB`, `coord`
and the display unchanged, and responds with code 0 at the tick after its acceptance. -/
def Obligations.PlayOfEmptyAnimation : Prop :=
  (∀ (s : State) (i : Byte), s.par.animRom[i.toNat]? = some [] → s.ser.txState = .idle →
    exec (.play i) s = .next { s with
      rspValid := true, rspCode := 0, lastRsp := 0, phase := .ready, cur := none, seq := .idle
      frameIdx := 0, ser := { s.ser with dout := false } }) ∧
  ∀ (s : State) (i : Byte), CoreInv s → LineInv s → s.entersReset = false → s.phase = .ready →
    s.pins.cmdValid = true → s.pins.cmd = 1#1 ++ i → s.par.animRom[i.toNat]? = some [] →
    ∃ t, step s = .next t ∧ t.rspValid = true ∧ t.rspCode = 0 ∧ t.lastRsp = 0 ∧ t.cmdReady = true ∧
      t.fb = s.fb ∧ t.coord = s.coord ∧ t.ser = s.ser ∧ t.seq = .idle ∧ t.delayCnt = s.delayCnt ∧
      t.chain.display = s.chain.display

/-- R203: `PLAY i` with `i ≥ N_ANIM` raises `AnimIndex`: response code 2 at the next tick, ready
there, `FB`, `coord`, `dout` and the display unchanged; with a smaller index it does not. -/
def Obligations.PlayOfUnknownIndex : Prop :=
  ∀ (s : State) (i : Byte), CoreInv s → LineInv s → s.entersReset = false → s.phase = .ready →
    s.pins.cmdValid = true → s.pins.cmd = 1#1 ++ i →
    (s.par.animRom.length ≤ i.toNat →
      ∃ t, step s = .next t ∧ t.rspValid = true ∧ t.rspCode = 2 ∧ t.lastRsp = 2 ∧
        t.cmdReady = true ∧ t.fb = s.fb ∧ t.coord = s.coord ∧ t.ser = s.ser ∧ t.ser.dout = false ∧
        t.seq = .idle ∧ t.cur = none ∧ t.handle = s.handle ∧ t.chain.display = s.chain.display) ∧
    (i.toNat < s.par.animRom.length → ∃ t, step s = .next t ∧ t.rspCode = 0)

/-- The frame of every instruction. All leave the parameters, the pins, the host's plan, the tick
number, the chain, `handle` and `delay_cnt` alone. The line instructions leave all but the
serializer alone, and its chain position (that this is their meaning is read from the rules, log 10:
the step of R160 into a word moves `pos` on as well); a `PLAY` without a frame to show leaves `FB` and
`coord` alone; a command that starts a push leaves the response registers alone. -/
def Obligations.InstructionFrames : Prop :=
  ∀ (i : Instr) (s t : State), exec i s = .next t →
    (t.par = s.par ∧ t.pins = s.pins ∧ t.incoming = s.incoming ∧ t.tick = s.tick ∧
      t.chain = s.chain ∧ t.freeIdx = s.freeIdx ∧ t.handle = s.handle ∧ t.delayCnt = s.delayCnt) ∧
    ((i = .bit0 ∨ i = .bit1 ∨ ∃ g r b, i = .word g r b) →
      t = { s with ser := t.ser } ∧ t.ser.pos = s.ser.pos) ∧
    (∀ k, i = .play k → (animCount s.par k = none ∨ animCount s.par k = some 0) →
      t.fb = s.fb ∧ t.coord = s.coord) ∧
    (t.seq = .push →
      t.rspValid = s.rspValid ∧ t.rspCode = s.rspCode ∧ t.lastRsp = s.lastRsp)

/-! ### Steps -/

/-- A command presented to a ready core is decoded and runs: the step is `exec` of it, and the pins,
the host's plan, the tick number and the chain move on with it (R30, R221, R232). -/
def Obligations.StepRunsCommand : Prop :=
  ∀ (s : State) (i : Instr), s.entersReset = false → s.phase = .ready → s.pins.cmdValid = true →
    i.wellFormed = true → encodeCode i = .command s.pins.cmd →
    ∃ t, exec i (clearResponse s) = .next t ∧ step s = .next (s.enter t)

/-- At the end of a symbol inside a word the next bit of `shreg` runs as `BIT0` or `BIT1`, at the next
lower bit number (R25, R160; log 10). -/
def Obligations.StepRunsSymbol : Prop :=
  ∀ (s : State) (h : 0 < s.ser.bitn.val), s.entersReset = false → s.seq = .push →
    (s.phase = .busy ∨ s.phase = .init ∧ s.handle = .held) →
    s.ser.txState = .low → s.ser.cnt = 0 →
    ∃ t, exec (if s.ser.shreg.getLsbD (s.ser.bitn.val - 1) then .bit1 else .bit0)
        { clearResponse s with
          ser := { s.ser with bitn := ⟨s.ser.bitn.val - 1, by omega⟩ } } = .next t ∧
      step s = .next (s.enter t)

/-- At the end of a word before the last the next word runs as `WORD`, at the next chain position; and
a push begins as the `WORD` of position 0 (R69, R160; log 10). -/
def Obligations.StepRunsWord : Prop :=
  (∀ (s : State) (h : s.ser.pos.val < 24), s.entersReset = false → s.seq = .push →
    (s.phase = .busy ∨ s.phase = .init ∧ s.handle = .held) →
    s.ser.txState = .low → s.ser.cnt = 0 → s.ser.bitn = 0 →
    ∃ t, exec (decodeColour (frameWord s.par s.fb ⟨s.ser.pos.val + 1, by omega⟩))
        { clearResponse s with
          ser := { s.ser with pos := ⟨s.ser.pos.val + 1, by omega⟩ } } = .next t ∧
      step s = .next (s.enter t)) ∧
  (∀ (s : State) (m : Pattern), s.ser.txState = .idle →
    exec (decodeColour (frameWord s.par m 0))
        { s with fb := m, seq := .push, ser := { s.ser with pos := 0 } } =
      .next (startPush m s))

/-- In a ready core a step without reset begins or completes a command exactly when one is presented
(R30). -/
def Obligations.AcceptedExactlyWhenPresented : Prop :=
  ∀ s t : State, s.entersReset = false → s.phase = .ready → step s = .next t →
    (s.pins.cmdValid = true ↔ (t.phase = .busy ∨ t.rspValid = true))

/-- While the core is not ready the command port does not matter (R30, R162). -/
def Obligations.PortIgnoredWhenNotReady : Prop :=
  ∀ (s : State) (v : Bool) (w : CmdWord), s.phase ≠ .ready →
    step { s with pins := { s.pins with cmdValid := v, cmd := w } } = step s

/-- `hw_avail` does not matter once the handle is held or start-up is over (R142, R314). The host's
plan for the next tick is fixed, since a model's own rule says what follows an empty one (log 5). -/
def Obligations.HwAvailSampledOnce : Prop :=
  ∀ (s : State) (v : Bool), s.incoming ≠ [] → (s.phase ≠ .init ∨ s.handle = .held) →
    step { s with pins := { s.pins with hwAvail := v } } = step s

/-- R290: a tick at which `rst` = 1 is a tick in the reset state, whatever else was due; the
parameters keep their values. -/
def Obligations.ResetOverrides : Prop :=
  ∀ s : State, s.nextPins.rst = true →
    ∃ t, step s = .next t ∧ t.fb = Pattern.zero ∧ t.coord = .idle ∧ t.phase = .init ∧
      t.cur = none ∧ t.frameIdx = 0 ∧ t.seq = .idle ∧ t.delayCnt = 0 ∧ t.ser.txState = .idle ∧
      t.ser.pos = 0 ∧ t.ser.bitn = 23 ∧ t.ser.cnt = 0 ∧ t.ser.shreg = 0 ∧ t.ser.dout = false ∧
      t.handle = .none ∧ t.lastRsp = 0 ∧ t.rspValid = false ∧ t.rspCode = 0 ∧ t.status = 0x0000 ∧
      t.cmdReady = false ∧ t.par = s.par

/-- Tick 0 is the first tick with `rst` = 0 after one with `rst` = 1, and the core is in the reset
state there (R35, R291; that this holds of the step out of a reset tick is read from both rules, log
3). -/
def Obligations.TickZeroIsReset : Prop :=
  ∀ s : State, s.pins.rst = true → s.nextPins.rst = false →
    ∃ t, step s = .next t ∧ t.tick = 0 ∧ t.coreReset = t ∧ t.status = 0x0000 ∧ t.pins.rst = false

/-- From the reset state with `hw_avail` = 1 and no reset, `STATUS` is `0x0040` on ticks 1 to
`T_INIT` − 1, the line carries the leading gap and then the all-zero frame, and the core is ready at
`T_INIT` without a response (R293; after the ticks it has planned the host presents nothing, log 5). -/
def Obligations.StartUpReachesReady : Prop :=
  ∀ s : State, s.coreReset = s → s.quietReset → s.pins.hwAvail = true →
    (∀ n, 0 < n → n < s.par.tInit →
      ∃ t, steps n s = .next t ∧ t.phase = .init ∧ t.status = 0x0040 ∧ t.rspValid = false ∧
        t.ser.dout =
          if n < s.par.tLatch then false else pushWave s.par Pattern.zero (n - s.par.tLatch)) ∧
    ∃ t, steps s.par.tInit s = .next t ∧ t.phase = .ready ∧ t.status = 0x0041 ∧
      t.rspValid = false

/-- R143: without the hardware at tick 0 the core is in `P_FATAL` from tick 1 for as long as there is
no reset, every element but `phase` keeps its reset value, and every such state is a faulted one (after
the ticks it has planned the host does not reset, log 5; that `P_FATAL` is a next state, classed as
faulted, is the model's, log 16). -/
def Obligations.FatalUntilReset : Prop :=
  ∀ s : State, s.coreReset = s → s.quietReset → s.pins.hwAvail = false →
    s.status = 0x0000 ∧
    ∀ n, 0 < n →
      ∃ t, steps n s = .next t ∧ t.phase = .fatal ∧ t.handle = .none ∧ t.ser.dout = false ∧
        t.cmdReady = false ∧ t.rspValid = false ∧ t.status = 0x0002 ∧ t.faulted = true ∧
        t.coreReset = { t with phase := .init }

/-- From acceptance to response a character takes exactly 1 + `T_PUSH` ticks, busy and without a
response in between (R230; after the ticks it has planned the host presents nothing, log 5). -/
def Obligations.CharacterResponseTime : Prop :=
  ∀ (s : State) (ch : Byte), CoreInv s → s.phase = .ready → s.quietReset →
    s.pins.cmdValid = true → s.pins.cmd = 0#1 ++ ch →
    (∀ n, 0 < n → n ≤ s.par.tPush →
      ∃ t, steps n s = .next t ∧ t.phase = .busy ∧ t.rspValid = false) ∧
    ∃ t, steps (1 + s.par.tPush) s = .next t ∧ t.phase = .ready ∧ t.rspValid = true ∧
      t.rspCode = 0 ∧ t.lastRsp = 0

/-- A `PLAY` of `n` frames pushes frame `k` from tick 1 + k·(`T_PUSH` + `T_FRAME`) on, in order, and
responds exactly 1 + n·(`T_PUSH` + `T_FRAME`) ticks after acceptance (R204, R207, R230; after the ticks
it has planned the host presents nothing, log 5). -/
def Obligations.PlayResponseTime : Prop :=
  ∀ (s : State) (i : Byte) (a : Animation), CoreInv s → s.phase = .ready → s.quietReset →
    s.pins.cmdValid = true → s.pins.cmd = 1#1 ++ i → s.par.animRom[i.toNat]? = some a → a ≠ [] →
    (∀ n, 0 < n → n ≤ a.length * (s.par.tPush + s.par.tFrame) →
      ∃ t, steps n s = .next t ∧ t.phase = .busy ∧ t.rspValid = false) ∧
    (∀ (k : Nat) (h : k < a.length),
      ∃ t, steps (1 + k * (s.par.tPush + s.par.tFrame)) s = .next t ∧ t.frameIdx = k ∧
        t.fb = a[k] ∧ t.coord = .showAnim i ∧ t.ser = pushStart s.par a[k]) ∧
    ∃ t, steps (1 + a.length * (s.par.tPush + s.par.tFrame)) s = .next t ∧ t.phase = .ready ∧
      t.rspValid = true ∧ t.rspCode = 0 ∧ t.lastRsp = 0 ∧ t.coord = .showAnim i

/-! ### Invariants -/

/-- The control invariant holds at reset. -/
def Obligations.CoreInvAtReset : Prop := CoreInv State.reset

/-- Every step keeps the control invariant (R22 to R27, R36, R37). -/
def Obligations.CoreInvKept : Prop :=
  ∀ s t : State, CoreInv s → step s = .next t → CoreInv t

/-- The invariant of the line and the chain holds at reset, whatever the chain holds. -/
def Obligations.LineInvAtReset : Prop := LineInv State.reset

/-- Every step keeps the invariant of the line and the chain (R36, R156, R171, R172, R175; that a pulse
becomes a bit as the line falls, that no latch comes within a symbol's low part, and that the chain's
tick acts at a tick of reset too, is the model's, log 19, log 12 and log 6). -/
def Obligations.LineInvKept : Prop :=
  ∀ s t : State, CoreInv s → LineInv s → step s = .next t → LineInv t

/-- The machine is never stuck (R321: every command completes; log 15 for the fault's name). -/
def Obligations.NeverStuck : Prop :=
  ∀ s : State, CoreInv s → ∃ t, step s = .next t

/-- How long the line has been low when a frame begins: at least `T_LATCH` ticks in every case;
after a frame of a command or of the start-up, at least `T_LATCH` + 1 ticks beyond the last symbol's
low part; between the frames of a `PLAY`, exactly `T_LATCH` + `T_FRAME` beyond it (R156, R205). -/
def Obligations.SpacingBetweenFrames : Prop :=
  ∀ s t : State, CoreInv s → LineInv s → s.entersReset = false → step s = .next t →
    s.ser.txState = .idle → t.ser.txState = .high →
    s.par.tLatch ≤ s.chain.loRun ∧
    (s.phase = .ready → s.par.lo s.lastBit + s.par.tLatch + 1 ≤ s.chain.loRun) ∧
    (s.phase = .busy → s.chain.loRun = s.par.lo s.lastBit + s.par.tLatch + s.par.tFrame)

/-- When the core is ready the board shows the image `coord` names: black, the digit's glyph, or the
animation's last frame (R36 items 5 and 6, R175). -/
def Obligations.ReadyShowsImage : Prop :=
  ∀ s : State, CoreInv s → LineInv s → s.phase = .ready →
    ∃ m, coordImage s.par s.coord = some m ∧
      ∀ cell : Fin 25, s.shown cell = some (s.par.encode m[cell])

/-- R37: `FB` does not change while a push is running; it is written only in the step that starts a
push, of that very Matrix; and until the push has completed nothing else is started. -/
def Obligations.FrameBufferStableDuringPush : Prop :=
  ∀ s t : State, CoreInv s → s.entersReset = false → step s = .next t →
    (s.seq = .push → t.fb = s.fb) ∧
    (t.fb ≠ s.fb → t.seq = .push ∧ t.ser = pushStart s.par t.fb) ∧
    (s.seq = .push → s.ser.txLast = false →
      t.seq = .push ∧ t.phase = s.phase ∧ t.ser = s.ser.tick s.par s.fb false)

/-- `coord` is written by an accepted command only, and its new value depends on the command only
(R22, R225); a reset makes it `Idle`. -/
def Obligations.CoordTransition : Prop :=
  ∀ s t : State, step s = .next t →
    t.coord =
      if s.entersReset then .idle
      else if s.accepting then
        match decodeCommand s.pins.cmd with
        | .showdigit d => .showDigit d
        | .clearchar _ => .idle
        | .play i =>
          match s.par.animRom[i.toNat]? with
          | some (_ :: _) => .showAnim i
          | _ => s.coord
        | _ => s.coord
      else s.coord

/-- No step changes the parameters (R11). -/
def Obligations.ParametersConstant : Prop :=
  ∀ s t : State, step s = .next t → t.par = s.par

/-- The response lasts one tick and `last_rsp` keeps its code until the next one; the codes at the port
are 0 and 2 only (R29, R229, R251, R257). -/
def Obligations.ResponsesAndLastRsp : Prop :=
  ∀ s t : State, s.entersReset = false → step s = .next t →
    (t.rspValid = true →
      t.phase = .ready ∧ t.lastRsp = t.rspCode ∧ (t.rspCode = 0 ∨ t.rspCode = 2)) ∧
    (t.rspValid = false → t.rspCode = 0 ∧ t.lastRsp = s.lastRsp)

/-- R28: the fields of `STATUS`, its reserved bit, its reset value and the worked example; `FATAL`
stays 1 until reset; `LAST_RSP` takes the code of each response and keeps it. -/
def Obligations.StatusFields : Prop :=
  (∀ s : State,
    s.status.getLsbD 0 = decide (s.phase = .ready) ∧
    s.status.getLsbD 0 = s.cmdReady ∧
    s.status.getLsbD 1 = decide (s.phase = .fatal) ∧
    s.status.getLsbD 2 = decide (s.coord ≠ .idle) ∧
    (s.status.getLsbD 3 = true ↔ ∃ i, s.coord = .showAnim i) ∧
    s.status.extractLsb' 4 2 = s.lastRsp ∧
    s.status.getLsbD 6 = decide (s.handle = .held) ∧
    s.status.getLsbD 7 = false ∧
    (s.coord = .idle → s.status.extractLsb' 8 8 = 0) ∧
    (∀ d, s.coord = .showDigit d → (s.status.extractLsb' 8 8).toNat = d.toNat) ∧
    (∀ i, s.coord = .showAnim i → s.status.extractLsb' 8 8 = i) ∧
    s.coreReset.status = 0x0000) ∧
  (∀ s : State, s.phase = .ready → s.coord = .showDigit 7 → s.handle = .held → s.lastRsp = 0 →
    s.status = 0x0745) ∧
  ∀ s t : State, s.entersReset = false → step s = .next t →
    (s.status.getLsbD 1 = true → t.status.getLsbD 1 = true) ∧
    t.status.extractLsb' 4 2 =
      if t.rspValid then t.rspCode else s.status.extractLsb' 4 2

/-! ### The LED chain -/

/-- A high pulse of exactly `T0H` ticks appends a 0 and one of exactly `T1H` ticks a 1 (R171). That it
does so at the tick at which the line falls, and that no latch comes there, is the model's timing (log
19, log 12). -/
def Obligations.PulseBecomesBit : Prop :=
  ∀ (p : Params) (free : Nat) (c : Chain) (b : Bool),
    c.hiRun = (if b then p.t1h else p.t0h) → c.loRun = 0 →
    c.tick p free false =
      { c with bits := c.bits ++ [b], hiRun := 0, loRun := 1 }

/-- A latch gives each LED that received a complete word that word, bit 23 the first received, leaves
an LED that received nothing as it was, and empties `CH_BITS` (R172). -/
def Obligations.LatchAppliesCompleteWords : Prop :=
  ∀ (free : Nat) (c : Chain),
    (c.latch free).bits = [] ∧
    ∀ p : Fin 25,
      (24 * (p.val + 1) ≤ c.bits.length → ∀ j, j < 24 →
        ((c.latch free).display[p]).getLsbD (23 - j) = c.bits.getD (24 * p.val + j) false) ∧
      (c.bits.length ≤ 24 * p.val → (c.latch free).display[p] = c.display[p])

/-! ### Assembler -/

/-- A line that assembles gives the word of its command, and the assembler refuses exactly the
operands out of range (R102, R103). -/
def Obligations.AssemblerAgreesWithDecoder : Prop :=
  (∀ d : Nat, (9 < d → assemble (.showdigit d) = none ∧ assemble (.digit d) = none) ∧
    (d ≤ 9 → ∃ w, assemble (.showdigit d) = some w ∧ assemble (.digit d) = some w ∧
      decodeCommand w = .showdigit (BitVec.ofNat 4 d))) ∧
  (∀ v : Nat, (255 < v ∨ (0x30 ≤ v ∧ v ≤ 0x39) → assemble (.clearchar v) = none) ∧
    (v ≤ 255 → ¬(0x30 ≤ v ∧ v ≤ 0x39) → ∃ w, assemble (.clearchar v) = some w ∧
      assemble (.char v) = some w ∧ decodeCommand w = .clearchar (BitVec.ofNat 8 v))) ∧
  (∀ i : Nat, (255 < i → assemble (.play i) = none) ∧
    (i ≤ 255 → ∃ w, assemble (.play i) = some w ∧
      decodeCommand w = .play (BitVec.ofNat 8 i))) ∧
  (∀ v : Nat, (255 < v → assemble (.char v) = none) ∧
    (0x30 ≤ v → v ≤ 0x39 → ∃ w, assemble (.char v) = some w ∧
      decodeCommand w = .showdigit (BitVec.ofNat 4 (v - 0x30)))) ∧
  assemble .clear = some 0x020
end

