-- ==== Sys2Proof/Laws/Parameters.lean ====
section
/-! SUPPORT. What an admissible instance satisfies, constraint by constraint (R9, R14, R141, R183,
R184, R202), and what the store accesses answer. -/

namespace Sys2Proof

theorem Params.admissible_parts (p : Params) :
    p.channelsDistinct = true ∧ p.timingOk = true ∧ p.wiringBijective = true ∧
      p.glyphsDistinct = true ∧ p.glyphsVisible = true ∧ p.animsOk = true := by
  have h := p.ok
  simp only [ParamData.admissible, Bool.and_eq_true] at h
  tauto

theorem Params.timing (p : Params) :
    0 < p.t0h ∧ p.t0h < p.t1h ∧ p.t1h < p.tBit ∧ p.t0l < p.tLatch ∧ p.t1l < p.tLatch ∧
      p.tLatch ≤ p.tFrame := by
  have h := p.admissible_parts.2.1
  simp only [ParamData.timingOk, Bool.and_eq_true, decide_eq_true_eq] at h
  tauto

theorem Params.hi_pos (p : Params) (b : Bool) : 0 < p.hi b := by
  have := p.timing; cases b <;> simp [ParamData.hi] <;> omega

theorem Params.hi_lt_tBit (p : Params) (b : Bool) : p.hi b < p.tBit := by
  have := p.timing; cases b <;> simp [ParamData.hi] <;> omega

theorem Params.lo_pos (p : Params) (b : Bool) : 0 < p.lo b := by
  have := p.hi_lt_tBit b; simp only [ParamData.lo]; omega

theorem Params.hi_add_lo (p : Params) (b : Bool) : p.hi b + p.lo b = p.tBit := by
  have := p.hi_lt_tBit b; simp only [ParamData.lo]; omega

theorem Params.lo_le_longest (p : Params) (b : Bool) : p.lo b ≤ max p.t0l p.t1l := by
  cases b <;> simp [ParamData.lo, ParamData.hi, ParamData.t0l, ParamData.t1l]

theorem Params.longest_lt_tLatch (p : Params) : max p.t0l p.t1l < p.tLatch := by
  have := p.timing; omega

theorem Params.lo_lt_tLatch (p : Params) (b : Bool) : p.lo b < p.tLatch :=
  lt_of_le_of_lt (p.lo_le_longest b) p.longest_lt_tLatch

theorem Params.two_le_tLatch (p : Params) : 2 ≤ p.tLatch := by
  have := p.lo_pos false; have := p.lo_lt_tLatch false; omega

theorem Params.channels_distinct (p : Params) :
    p.channelOrder.first ≠ p.channelOrder.second ∧ p.channelOrder.first ≠ p.channelOrder.third ∧
      p.channelOrder.second ≠ p.channelOrder.third := by
  have h := p.admissible_parts.1
  simp only [ParamData.channelsDistinct, Bool.and_eq_true, bne_iff_ne] at h
  tauto

/-- R14, R70: the wiring is injective, and so a bijection of the 25 positions. -/
theorem Params.wiring_injective (p : Params) :
    Function.Injective fun i : Fin 25 => p.wiring[i] := by
  intro i j hij
  have h := p.admissible_parts.2.2.1
  simp only [ParamData.wiringBijective, List.all_eq_true, List.mem_finRange, true_implies,
    Bool.or_eq_true, beq_iff_eq, bne_iff_ne] at h
  exact (h i j).resolve_right fun hne => hne hij

theorem Params.wiring_surjective (p : Params) :
    Function.Surjective fun i : Fin 25 => p.wiring[i] :=
  Finite.injective_iff_surjective.mp p.wiring_injective

theorem ParamData.sameImage_iff (p : ParamData) (m n : Pattern) :
    p.sameImage m n = true ↔ ∀ c : Fin 25, p.encode m[c] = p.encode n[c] := by
  simp [ParamData.sameImage]

/-- R183: two digits differ in the word of some cell. -/
theorem Params.glyphs_distinct (p : Params) {d e : Fin 10} (h : d ≠ e) :
    ∃ c : Fin 25, p.encode p.glyphRom[d][c] ≠ p.encode p.glyphRom[e][c] := by
  have hd := p.admissible_parts.2.2.2.1
  simp only [ParamData.glyphsDistinct, List.all_eq_true, List.mem_finRange, true_implies,
    Bool.or_eq_true, beq_iff_eq, Bool.not_eq_true'] at hd
  have hne := (hd d e).resolve_left h
  by_contra hall
  push Not at hall
  exact Bool.false_ne_true (hne ▸ (p.toParamData.sameImage_iff _ _).mpr hall)

/-- R184: every digit has a lit cell. -/
theorem Params.glyph_visible (p : Params) (d : Fin 10) :
    ∃ c : Fin 25, p.encode p.glyphRom[d][c] ≠ 0 := by
  have hv := p.admissible_parts.2.2.2.2.1
  simp only [ParamData.glyphsVisible, List.all_eq_true, List.mem_finRange, true_implies,
    List.any_eq_true, true_and, bne_iff_ne] at hv
  exact hv d

/-- R202: at most 256 animations. -/
theorem Params.nAnim_le (p : Params) : p.nAnim ≤ 256 := by
  have h := p.admissible_parts.2.2.2.2.2
  simp only [ParamData.animsOk, Bool.and_eq_true, decide_eq_true_eq] at h
  exact h.1

namespace Machine

/-- R202: an animation has at most five frames. -/
theorem animation_length_le {p : Params} {i : Byte} {a : Animation} (h : animation p i = some a) :
    a.length ≤ 5 := by
  have hall := p.admissible_parts.2.2.2.2.2
  simp only [ParamData.animsOk, Bool.and_eq_true, List.all_eq_true, decide_eq_true_eq] at hall
  exact hall.2 a (List.mem_of_getElem? h)

theorem animation_eq_none_iff (p : Params) (i : Byte) :
    animation p i = none ↔ p.nAnim ≤ i.toNat := by
  simp [animation, ParamData.nAnim]

theorem animFrame_eq_some {p : Params} {i : Byte} {k : Nat} {m : Pattern} :
    animFrame p i k = some m ↔ ∃ a, animation p i = some a ∧ a[k]? = some m := by
  simp [animFrame, Option.bind_eq_some_iff]

/-- R187: inside 0..9 `render_digit` answers the glyph. -/
theorem renderDigit_of_le {p : Params} {v : Int} (h : 0 ≤ v ∧ v ≤ 9) :
    renderDigit p v = .ok (glyphRead p ⟨v.toNat, by omega⟩) := dif_pos h

/-- R188: outside 0..9 it answers the contract violation and no Pattern. -/
theorem renderDigit_of_not_le {p : Params} {v : Int} (h : ¬(0 ≤ v ∧ v ≤ 9)) :
    renderDigit p v = .error (.digitRange v) := dif_neg h

/-- `WIRING⁻¹` is the inverse of the wiring (R34, R70). -/
theorem wiringInv_wiring (p : Params) (pos : Fin 25) :
    wiringInv p.wiring p.wiring[pos] = some pos := by
  unfold wiringInv
  cases hf : (List.finRange 25).find? fun q => p.wiring[q] == p.wiring[pos] with
  | none =>
    have := List.find?_eq_none.mp hf pos (List.mem_finRange pos)
    simp at this
  | some q =>
    have hq := List.find?_some hf
    exact congrArg some (p.wiring_injective (by simpa using hq))

@[simp] theorem wordBits_length (w : Word) : (wordBits w).length = 24 := by simp [wordBits]

end Machine

end Sys2Proof
end

