-- ==== Sys2Proof/Laws/Chain.lean ====
section
/-! SUPPORT. What one tick of the LED chain can do (R171 to R173). -/

namespace Sys2Proof.Machine

variable {p : Params} {free : Nat} {c : Chain}

@[simp] theorem chain_tick_high :
    c.tick p free true = { c with hiRun := c.hiRun + 1, loRun := 0 } := rfl

@[simp] theorem receivedBit_hi (b : Bool) : receivedBit p free (p.hi b) = b := by
  have := p.timing
  cases b
  · simp [receivedBit, ParamData.hi]
  · have : p.t1h ≠ p.t0h := by omega
    simp [receivedBit, ParamData.hi, this]

theorem endPulse_of_low (h : c.hiRun = 0) : c.endPulse p free = c := by
  simp [Chain.endPulse, h]

/-- A nominal pulse becomes its bit (R171). -/
theorem endPulse_of_nominal {b : Bool} (h : c.hiRun = p.hi b) :
    c.endPulse p free = { c with bits := c.bits ++ [b], hiRun := 0 } := by
  have := p.hi_pos b
  have hne : c.hiRun ≠ 0 := by omega
  unfold Chain.endPulse
  rw [if_neg hne, h, receivedBit_hi]

/-- A latch comes only after the low part of the last symbol (R172, R173, U15). -/
theorem lo_lt_of_latchesAt {bits : List Bool} {n : Nat} (h : latchesAt p free bits n = true) :
    p.lo (bits.getLastD false) < n := by
  have := p.lo_lt_tLatch (bits.getLastD false)
  simp only [latchesAt, Bool.or_eq_true, Bool.and_eq_true, decide_eq_true_eq] at h
  omega

/-- No latch within the low part of the last symbol (R173). -/
theorem latchesAt_symbol {bits : List Bool} {n : Nat} (h : n ≤ p.lo (bits.getLastD false)) :
    latchesAt p free bits n = false :=
  Bool.eq_false_iff.mpr fun hl => absurd (lo_lt_of_latchesAt hl) (by omega)

/-- A latch when the low run has reached `T_LATCH` (R172). -/
theorem latchesAt_long {bits : List Bool} {n : Nat} (h : p.tLatch ≤ n) :
    latchesAt p free bits n = true := by
  simp [latchesAt, h]

/-- The spec lemma of a low tick: the chain ends its pulse, counts the tick, and either keeps what it
holds or latches it. It holds nothing once the run has reached `T_LATCH`, and it latches only after
the low part of its last symbol. -/
theorem chain_tick_low :
    c.tick p free false = { c.endPulse p free with loRun := c.loRun + 1 } ∧
        (p.tLatch ≤ c.loRun + 1 → (c.endPulse p free).bits = []) ∨
      c.tick p free false =
          ({ c.endPulse p free with loRun := c.loRun + 1 } : Chain).latch free ∧
        p.lo ((c.endPulse p free).bits.getLastD false) < c.loRun + 1 := by
  by_cases hl : latchesAt p free (c.endPulse p free).bits (c.loRun + 1) = true
  · by_cases hb : (c.endPulse p free).bits.isEmpty = true
    · left
      exact ⟨by simp [Chain.tick, hl, hb], fun _ => List.isEmpty_iff.mp hb⟩
    · right
      exact ⟨by simp [Chain.tick, hl, hb], lo_lt_of_latchesAt hl⟩
  · left
    exact ⟨by simp [Chain.tick, hl], fun h => absurd (latchesAt_long h) hl⟩

/-- A low tick within the low part of the last symbol (R173). -/
theorem chain_tick_symbol (h : c.loRun + 1 ≤ p.lo ((c.endPulse p free).bits.getLastD false)) :
    c.tick p free false = { c.endPulse p free with loRun := c.loRun + 1 } := by
  rcases chain_tick_low (p := p) (free := free) (c := c) with h' | h'
  · exact h'.1
  · omega

@[simp] theorem latch_bits : (c.latch free).bits = [] := rfl
@[simp] theorem latch_hiRun : (c.latch free).hiRun = c.hiRun := rfl
@[simp] theorem latch_loRun : (c.latch free).loRun = c.loRun := rfl

@[simp] theorem latch_display (pos : Fin 25) :
    (c.latch free).display[pos] = latchedWord free c.bits pos c.display[pos] := by
  simp [Chain.latch]

end Sys2Proof.Machine
end

