-- ==== Sys2Proof/Laws/Encoder.lean ====
section
/-! SUPPORT. What the Color Encoder can answer: the clamp stays in [0, 1], the scaled value in
0..255, and each byte of a word is its own channel's. -/

namespace Sys2Proof.Machine

theorem clamp01_nonneg (x : Rat) : 0 ≤ clamp01 x := by
  unfold clamp01; split_ifs <;> linarith

theorem clamp01_le_one (x : Rat) : clamp01 x ≤ 1 := by
  unfold clamp01; split_ifs <;> linarith

theorem clamp01_of_mem {x : Rat} (h0 : 0 ≤ x) (h1 : x ≤ 1) : clamp01 x = x := by
  unfold clamp01; rw [if_neg (by linarith), if_neg (by linarith)]

theorem clamp01_mono {x y : Rat} (h : x ≤ y) : clamp01 x ≤ clamp01 y := by
  unfold clamp01; split_ifs <;> linarith

theorem rat_floor_eq (y : Rat) : y.floor = ⌊y⌋ := rfl

theorem roundScaled_floor (y : Rat) : roundScaled .floor y = ⌊y⌋ := rfl

theorem roundScaled_nearest (y : Rat) : roundScaled .nearest y = ⌊y + 1 / 2⌋ := rfl

theorem roundScaled_nonneg (mode : RoundMode) {y : Rat} (h : 0 ≤ y) : 0 ≤ roundScaled mode y := by
  cases mode
  · rw [roundScaled_floor]; exact Int.floor_nonneg.mpr h
  · rw [roundScaled_nearest]; exact Int.floor_nonneg.mpr (by linarith)

theorem roundScaled_le (mode : RoundMode) {y : Rat} (h : y ≤ 255) : roundScaled mode y ≤ 255 := by
  have key : ∀ z : Rat, z < 256 → ⌊z⌋ ≤ 255 := fun z hz => by
    have : ⌊z⌋ < 256 := Int.floor_lt.mpr (by exact_mod_cast hz)
    omega
  cases mode
  · rw [roundScaled_floor]; exact key _ (by linarith)
  · rw [roundScaled_nearest]; exact key _ (by linarith)

/-- The spec lemma of `quantize` (R122, R127, R129): narrowing never wraps. -/
theorem quantize_toNat (mode : RoundMode) (x : Rat) :
    ((quantize mode x).toNat : Int) = roundScaled mode (255 * clamp01 x) := by
  have h0 := roundScaled_nonneg mode (y := 255 * clamp01 x) (by have := clamp01_nonneg x; linarith)
  have h1 := roundScaled_le mode (y := 255 * clamp01 x) (by have := clamp01_le_one x; linarith)
  rw [quantize, BitVec.toNat_ofInt]
  omega

end Sys2Proof.Machine
end

