-- ==== Sys2Proof/Laws/PerInstr.lean ====
section
/-! SUPPORT. Statements about every instruction as syntax, one lemma per constructor. -/

namespace Sys2Proof

/-- The bytes an instruction's encoding takes: two for a command word (R91), three for a colour word
(R97), four for a line symbol (R98). -/
def Laws.EncodingSize.Statement (i : Instr) : Prop :=
  (encode i).length =
    match i with
    | .showdigit _ => 2
    | .clearchar _ => 2
    | .play _ => 2
    | .bit0 => 4
    | .bit1 => 4
    | .word _ _ _ => 3

theorem Laws.EncodingSize.showdigit (d : BitVec 4) :
    Laws.EncodingSize.Statement (.showdigit d) := rfl
theorem Laws.EncodingSize.clearchar (ch : Byte) :
    Laws.EncodingSize.Statement (.clearchar ch) := rfl
theorem Laws.EncodingSize.play (i : Byte) : Laws.EncodingSize.Statement (.play i) := rfl
theorem Laws.EncodingSize.bit0 : Laws.EncodingSize.Statement .bit0 := rfl
theorem Laws.EncodingSize.bit1 : Laws.EncodingSize.Statement .bit1 := rfl
theorem Laws.EncodingSize.word (g r b : Byte) :
    Laws.EncodingSize.Statement (.word g r b) := rfl

end Sys2Proof
end

