-- ==== Sys2Proof/Laws/Script.lean ====
section
/-! SUPPORT. What the host of a script does at one tick (R102, R103). -/

namespace Sys2Proof.Machine

variable {hw : Bool} {next pending : Nat} {ops : List HostOp}

/-- A `WAIT` holds the host while the command before it is without its response. -/
theorem scriptDrive_wait_holds (h : pending ≠ 0) :
    scriptDrive hw next pending (.wait :: ops) =
      (idlePins hw, ⟨.wait :: ops, pending, false, hw⟩) := by
  simp [scriptDrive, h]

/-- A `WAIT` is over when nothing is outstanding. -/
@[simp] theorem scriptDrive_wait_over :
    scriptDrive hw next 0 (.wait :: ops) = scriptDrive hw next 0 ops := by
  simp [scriptDrive]

/-- The host drives `HW_AVAIL` at every tick of a script. -/
theorem scriptDrive_hwAvail :
    (scriptDrive hw next pending ops).1.hwAvail = hw ∧
      (scriptDrive hw next pending ops).2.hwAvail = hw := by
  induction ops with
  | nil => exact ⟨rfl, rfl⟩
  | cons op rest ih =>
    cases op with
    | command w => exact ⟨rfl, rfl⟩
    | reset => exact ⟨rfl, rfl⟩
    | wait =>
      by_cases h : pending = 0
      · simpa [scriptDrive, h] using ih
      · simp [scriptDrive, h, idlePins]
    | atTick t =>
      by_cases h : t ≤ next
      · simpa [scriptDrive, h] using ih
      · simp [scriptDrive, h, idlePins]

/-- The host presents a command exactly when it is the first thing still to be done, and says so. -/
theorem scriptDrive_presents :
    ((scriptDrive hw next pending ops).1.cmdValid = (scriptDrive hw next pending ops).2.presenting) ∧
      ((scriptDrive hw next pending ops).2.presenting = true →
        (scriptDrive hw next pending ops).2.ops.head? =
          some (.command (scriptDrive hw next pending ops).1.cmd)) := by
  induction ops with
  | nil => simp [scriptDrive, idlePins]
  | cons op rest ih =>
    cases op with
    | command w => simp [scriptDrive, idlePins]
    | reset => simp [scriptDrive, idlePins]
    | wait =>
      by_cases h : pending = 0
      · simpa [scriptDrive, h] using ih
      · simp [scriptDrive, h, idlePins]
    | atTick t =>
      by_cases h : t ≤ next
      · simpa [scriptDrive, h] using ih
      · simp [scriptDrive, h, idlePins]

end Sys2Proof.Machine
end

