-- ==== Sys2Proof/Laws/State.lean ====
section
/-! SUPPORT. What each named update of the state does to each field: one lemma per field per update,
so that no proof unfolds a record update. -/

namespace Sys2Proof.Machine

/-! ### `State.serStep` -/

@[simp] theorem State.serStep_par (b : Bool) (s : State) : (s.serStep b).par = s.par := rfl
@[simp] theorem State.serStep_fb (b : Bool) (s : State) : (s.serStep b).fb = s.fb := rfl
@[simp] theorem State.serStep_coord (b : Bool) (s : State) : (s.serStep b).coord = s.coord := rfl
@[simp] theorem State.serStep_phase (b : Bool) (s : State) : (s.serStep b).phase = s.phase := rfl
@[simp] theorem State.serStep_cur (b : Bool) (s : State) : (s.serStep b).cur = s.cur := rfl
@[simp] theorem State.serStep_frameIdx (b : Bool) (s : State) : (s.serStep b).frameIdx = s.frameIdx := rfl
@[simp] theorem State.serStep_seq (b : Bool) (s : State) : (s.serStep b).seq = s.seq := rfl
@[simp] theorem State.serStep_delayCnt (b : Bool) (s : State) : (s.serStep b).delayCnt = s.delayCnt := rfl
@[simp] theorem State.serStep_handle (b : Bool) (s : State) : (s.serStep b).handle = s.handle := rfl
@[simp] theorem State.serStep_lastRsp (b : Bool) (s : State) : (s.serStep b).lastRsp = s.lastRsp := rfl
@[simp] theorem State.serStep_rspValid (b : Bool) (s : State) : (s.serStep b).rspValid = s.rspValid := rfl
@[simp] theorem State.serStep_rspCode (b : Bool) (s : State) : (s.serStep b).rspCode = s.rspCode := rfl
@[simp] theorem State.serStep_ser (b : Bool) (s : State) : (s.serStep b).ser = s.ser.tick s.par s.fb b := rfl
@[simp] theorem State.serStep_pins (b : Bool) (s : State) : (s.serStep b).pins = s.pins := rfl
@[simp] theorem State.serStep_incoming (b : Bool) (s : State) : (s.serStep b).incoming = s.incoming := rfl
@[simp] theorem State.serStep_tick (b : Bool) (s : State) : (s.serStep b).tick = s.tick := rfl
@[simp] theorem State.serStep_chain (b : Bool) (s : State) : (s.serStep b).chain = s.chain := rfl
@[simp] theorem State.serStep_freeIdx (b : Bool) (s : State) : (s.serStep b).freeIdx = s.freeIdx := rfl

/-! ### `startPush` -/

@[simp] theorem startPush_par (m : Pattern) (s : State) : (startPush m s).par = s.par := rfl
@[simp] theorem startPush_fb (m : Pattern) (s : State) : (startPush m s).fb = m := rfl
@[simp] theorem startPush_coord (m : Pattern) (s : State) : (startPush m s).coord = s.coord := rfl
@[simp] theorem startPush_phase (m : Pattern) (s : State) : (startPush m s).phase = s.phase := rfl
@[simp] theorem startPush_cur (m : Pattern) (s : State) : (startPush m s).cur = s.cur := rfl
@[simp] theorem startPush_frameIdx (m : Pattern) (s : State) : (startPush m s).frameIdx = s.frameIdx := rfl
@[simp] theorem startPush_seq (m : Pattern) (s : State) : (startPush m s).seq = .push := rfl
@[simp] theorem startPush_delayCnt (m : Pattern) (s : State) : (startPush m s).delayCnt = s.delayCnt := rfl
@[simp] theorem startPush_handle (m : Pattern) (s : State) : (startPush m s).handle = s.handle := rfl
@[simp] theorem startPush_lastRsp (m : Pattern) (s : State) : (startPush m s).lastRsp = s.lastRsp := rfl
@[simp] theorem startPush_rspValid (m : Pattern) (s : State) : (startPush m s).rspValid = s.rspValid := rfl
@[simp] theorem startPush_rspCode (m : Pattern) (s : State) : (startPush m s).rspCode = s.rspCode := rfl
@[simp] theorem startPush_ser (m : Pattern) (s : State) : (startPush m s).ser = s.ser.tick s.par m true := rfl
@[simp] theorem startPush_pins (m : Pattern) (s : State) : (startPush m s).pins = s.pins := rfl
@[simp] theorem startPush_incoming (m : Pattern) (s : State) : (startPush m s).incoming = s.incoming := rfl
@[simp] theorem startPush_tick (m : Pattern) (s : State) : (startPush m s).tick = s.tick := rfl
@[simp] theorem startPush_chain (m : Pattern) (s : State) : (startPush m s).chain = s.chain := rfl
@[simp] theorem startPush_freeIdx (m : Pattern) (s : State) : (startPush m s).freeIdx = s.freeIdx := rfl

/-! ### `clear` -/

@[simp] theorem clear_par (s : State) : (clear s).par = s.par := rfl
@[simp] theorem clear_fb (s : State) : (clear s).fb = Pattern.zero := rfl
@[simp] theorem clear_coord (s : State) : (clear s).coord = s.coord := rfl
@[simp] theorem clear_phase (s : State) : (clear s).phase = s.phase := rfl
@[simp] theorem clear_cur (s : State) : (clear s).cur = s.cur := rfl
@[simp] theorem clear_frameIdx (s : State) : (clear s).frameIdx = s.frameIdx := rfl
@[simp] theorem clear_seq (s : State) : (clear s).seq = .push := rfl
@[simp] theorem clear_delayCnt (s : State) : (clear s).delayCnt = s.delayCnt := rfl
@[simp] theorem clear_handle (s : State) : (clear s).handle = s.handle := rfl
@[simp] theorem clear_lastRsp (s : State) : (clear s).lastRsp = s.lastRsp := rfl
@[simp] theorem clear_rspValid (s : State) : (clear s).rspValid = s.rspValid := rfl
@[simp] theorem clear_rspCode (s : State) : (clear s).rspCode = s.rspCode := rfl
@[simp] theorem clear_ser (s : State) : (clear s).ser = s.ser.tick s.par Pattern.zero true := rfl
@[simp] theorem clear_pins (s : State) : (clear s).pins = s.pins := rfl
@[simp] theorem clear_incoming (s : State) : (clear s).incoming = s.incoming := rfl
@[simp] theorem clear_tick (s : State) : (clear s).tick = s.tick := rfl
@[simp] theorem clear_chain (s : State) : (clear s).chain = s.chain := rfl
@[simp] theorem clear_freeIdx (s : State) : (clear s).freeIdx = s.freeIdx := rfl

/-! ### `complete` -/

@[simp] theorem complete_par (code : BitVec 2) (s : State) : (complete code s).par = s.par := rfl
@[simp] theorem complete_fb (code : BitVec 2) (s : State) : (complete code s).fb = s.fb := rfl
@[simp] theorem complete_coord (code : BitVec 2) (s : State) : (complete code s).coord = s.coord := rfl
@[simp] theorem complete_phase (code : BitVec 2) (s : State) : (complete code s).phase = .ready := rfl
@[simp] theorem complete_cur (code : BitVec 2) (s : State) : (complete code s).cur = none := rfl
@[simp] theorem complete_frameIdx (code : BitVec 2) (s : State) : (complete code s).frameIdx = 0 := rfl
@[simp] theorem complete_seq (code : BitVec 2) (s : State) : (complete code s).seq = .idle := rfl
@[simp] theorem complete_delayCnt (code : BitVec 2) (s : State) : (complete code s).delayCnt = s.delayCnt := rfl
@[simp] theorem complete_handle (code : BitVec 2) (s : State) : (complete code s).handle = s.handle := rfl
@[simp] theorem complete_lastRsp (code : BitVec 2) (s : State) : (complete code s).lastRsp = code := rfl
@[simp] theorem complete_rspValid (code : BitVec 2) (s : State) : (complete code s).rspValid = true := rfl
@[simp] theorem complete_rspCode (code : BitVec 2) (s : State) : (complete code s).rspCode = code := rfl
@[simp] theorem complete_ser (code : BitVec 2) (s : State) : (complete code s).ser = s.ser := rfl
@[simp] theorem complete_pins (code : BitVec 2) (s : State) : (complete code s).pins = s.pins := rfl
@[simp] theorem complete_incoming (code : BitVec 2) (s : State) : (complete code s).incoming = s.incoming := rfl
@[simp] theorem complete_tick (code : BitVec 2) (s : State) : (complete code s).tick = s.tick := rfl
@[simp] theorem complete_chain (code : BitVec 2) (s : State) : (complete code s).chain = s.chain := rfl
@[simp] theorem complete_freeIdx (code : BitVec 2) (s : State) : (complete code s).freeIdx = s.freeIdx := rfl

/-! ### `accept` -/

@[simp] theorem accept_par (c : Command) (s : State) : (accept c s).par = s.par := rfl
@[simp] theorem accept_fb (c : Command) (s : State) : (accept c s).fb = s.fb := rfl
@[simp] theorem accept_coord (c : Command) (s : State) : (accept c s).coord = s.coord := rfl
@[simp] theorem accept_phase (c : Command) (s : State) : (accept c s).phase = .busy := rfl
@[simp] theorem accept_cur (c : Command) (s : State) : (accept c s).cur = some c := rfl
@[simp] theorem accept_frameIdx (c : Command) (s : State) : (accept c s).frameIdx = 0 := rfl
@[simp] theorem accept_seq (c : Command) (s : State) : (accept c s).seq = s.seq := rfl
@[simp] theorem accept_delayCnt (c : Command) (s : State) : (accept c s).delayCnt = s.delayCnt := rfl
@[simp] theorem accept_handle (c : Command) (s : State) : (accept c s).handle = s.handle := rfl
@[simp] theorem accept_lastRsp (c : Command) (s : State) : (accept c s).lastRsp = s.lastRsp := rfl
@[simp] theorem accept_rspValid (c : Command) (s : State) : (accept c s).rspValid = s.rspValid := rfl
@[simp] theorem accept_rspCode (c : Command) (s : State) : (accept c s).rspCode = s.rspCode := rfl
@[simp] theorem accept_ser (c : Command) (s : State) : (accept c s).ser = s.ser := rfl
@[simp] theorem accept_pins (c : Command) (s : State) : (accept c s).pins = s.pins := rfl
@[simp] theorem accept_incoming (c : Command) (s : State) : (accept c s).incoming = s.incoming := rfl
@[simp] theorem accept_tick (c : Command) (s : State) : (accept c s).tick = s.tick := rfl
@[simp] theorem accept_chain (c : Command) (s : State) : (accept c s).chain = s.chain := rfl
@[simp] theorem accept_freeIdx (c : Command) (s : State) : (accept c s).freeIdx = s.freeIdx := rfl

/-! ### `clearResponse` -/

@[simp] theorem clearResponse_par (s : State) : (clearResponse s).par = s.par := rfl
@[simp] theorem clearResponse_fb (s : State) : (clearResponse s).fb = s.fb := rfl
@[simp] theorem clearResponse_coord (s : State) : (clearResponse s).coord = s.coord := rfl
@[simp] theorem clearResponse_phase (s : State) : (clearResponse s).phase = s.phase := rfl
@[simp] theorem clearResponse_cur (s : State) : (clearResponse s).cur = s.cur := rfl
@[simp] theorem clearResponse_frameIdx (s : State) : (clearResponse s).frameIdx = s.frameIdx := rfl
@[simp] theorem clearResponse_seq (s : State) : (clearResponse s).seq = s.seq := rfl
@[simp] theorem clearResponse_delayCnt (s : State) : (clearResponse s).delayCnt = s.delayCnt := rfl
@[simp] theorem clearResponse_handle (s : State) : (clearResponse s).handle = s.handle := rfl
@[simp] theorem clearResponse_lastRsp (s : State) : (clearResponse s).lastRsp = s.lastRsp := rfl
@[simp] theorem clearResponse_rspValid (s : State) : (clearResponse s).rspValid = false := rfl
@[simp] theorem clearResponse_rspCode (s : State) : (clearResponse s).rspCode = 0 := rfl
@[simp] theorem clearResponse_ser (s : State) : (clearResponse s).ser = s.ser := rfl
@[simp] theorem clearResponse_pins (s : State) : (clearResponse s).pins = s.pins := rfl
@[simp] theorem clearResponse_incoming (s : State) : (clearResponse s).incoming = s.incoming := rfl
@[simp] theorem clearResponse_tick (s : State) : (clearResponse s).tick = s.tick := rfl
@[simp] theorem clearResponse_chain (s : State) : (clearResponse s).chain = s.chain := rfl
@[simp] theorem clearResponse_freeIdx (s : State) : (clearResponse s).freeIdx = s.freeIdx := rfl

/-! ### `State.coreReset` -/

@[simp] theorem State.coreReset_par (s : State) : s.coreReset.par = s.par := rfl
@[simp] theorem State.coreReset_fb (s : State) : s.coreReset.fb = Pattern.zero := rfl
@[simp] theorem State.coreReset_coord (s : State) : s.coreReset.coord = .idle := rfl
@[simp] theorem State.coreReset_phase (s : State) : s.coreReset.phase = .init := rfl
@[simp] theorem State.coreReset_cur (s : State) : s.coreReset.cur = none := rfl
@[simp] theorem State.coreReset_frameIdx (s : State) : s.coreReset.frameIdx = 0 := rfl
@[simp] theorem State.coreReset_seq (s : State) : s.coreReset.seq = .idle := rfl
@[simp] theorem State.coreReset_delayCnt (s : State) : s.coreReset.delayCnt = 0 := rfl
@[simp] theorem State.coreReset_handle (s : State) : s.coreReset.handle = .none := rfl
@[simp] theorem State.coreReset_lastRsp (s : State) : s.coreReset.lastRsp = 0 := rfl
@[simp] theorem State.coreReset_rspValid (s : State) : s.coreReset.rspValid = false := rfl
@[simp] theorem State.coreReset_rspCode (s : State) : s.coreReset.rspCode = 0 := rfl
@[simp] theorem State.coreReset_ser (s : State) : s.coreReset.ser = Serializer.reset := rfl
@[simp] theorem State.coreReset_pins (s : State) : s.coreReset.pins = s.pins := rfl
@[simp] theorem State.coreReset_incoming (s : State) : s.coreReset.incoming = s.incoming := rfl
@[simp] theorem State.coreReset_tick (s : State) : s.coreReset.tick = s.tick := rfl
@[simp] theorem State.coreReset_chain (s : State) : s.coreReset.chain = s.chain := rfl
@[simp] theorem State.coreReset_freeIdx (s : State) : s.coreReset.freeIdx = s.freeIdx := rfl

/-! ### `State.enter` -/

@[simp] theorem State.enter_par (s c : State) : (s.enter c).par = c.par := rfl
@[simp] theorem State.enter_fb (s c : State) : (s.enter c).fb = c.fb := rfl
@[simp] theorem State.enter_coord (s c : State) : (s.enter c).coord = c.coord := rfl
@[simp] theorem State.enter_phase (s c : State) : (s.enter c).phase = c.phase := rfl
@[simp] theorem State.enter_cur (s c : State) : (s.enter c).cur = c.cur := rfl
@[simp] theorem State.enter_frameIdx (s c : State) : (s.enter c).frameIdx = c.frameIdx := rfl
@[simp] theorem State.enter_seq (s c : State) : (s.enter c).seq = c.seq := rfl
@[simp] theorem State.enter_delayCnt (s c : State) : (s.enter c).delayCnt = c.delayCnt := rfl
@[simp] theorem State.enter_handle (s c : State) : (s.enter c).handle = c.handle := rfl
@[simp] theorem State.enter_lastRsp (s c : State) : (s.enter c).lastRsp = c.lastRsp := rfl
@[simp] theorem State.enter_rspValid (s c : State) : (s.enter c).rspValid = c.rspValid := rfl
@[simp] theorem State.enter_rspCode (s c : State) : (s.enter c).rspCode = c.rspCode := rfl
@[simp] theorem State.enter_ser (s c : State) : (s.enter c).ser = c.ser := rfl
@[simp] theorem State.enter_pins (s c : State) : (s.enter c).pins = s.nextPins := rfl
@[simp] theorem State.enter_incoming (s c : State) : (s.enter c).incoming = s.incoming.tail := rfl
@[simp] theorem State.enter_tick (s c : State) : (s.enter c).tick = s.nextTick := rfl
@[simp] theorem State.enter_chain (s c : State) : (s.enter c).chain = s.chainAhead.tick s.par s.freeIdx c.ser.dout := rfl

theorem State.chainAhead_of_run {s : State} (h : s.entersReset = false) : s.chainAhead = s.chain := by
  simp [State.chainAhead, h]

theorem State.chainAhead_of_reset {s : State} (h : s.entersReset = true) :
    s.chainAhead = s.chain.unknown s.freeIdx := by
  simp [State.chainAhead, h]

@[simp] theorem State.chainAhead_hiRun (s : State) : s.chainAhead.hiRun = s.chain.hiRun := by
  cases h : s.entersReset <;> simp [State.chainAhead, h, Chain.unknown]

@[simp] theorem State.chainAhead_loRun (s : State) : s.chainAhead.loRun = s.chain.loRun := by
  cases h : s.entersReset <;> simp [State.chainAhead, h, Chain.unknown]

@[simp] theorem State.enter_freeIdx (s c : State) : (s.enter c).freeIdx = s.freeIdx + 1 := rfl

/-! ### `takeException` -/

/-- R256: a contract violation completes the command with its code and does nothing else. -/
theorem takeException_contract {e : Exc} {code : BitVec 2} (h : e.code = some code) (s : State) :
    takeException e s = complete code s := by
  simp [takeException, h]

@[simp] theorem takeException_digitRange (v : Int) (s : State) :
    takeException (.digitRange v) s = complete 1 s := rfl

@[simp] theorem takeException_animIndex (i : Byte) (s : State) :
    takeException (.animIndex i) s = complete 2 s := rfl

@[simp] theorem takeException_reentry (s : State) : takeException .reentry s = complete 3 s := rfl

@[simp] theorem takeException_hwUnavailable (s : State) :
    takeException .hwUnavailable s = { s with phase := .fatal } := rfl

/-! ### The views of a state depend on these fields only -/

@[simp] theorem State.cmdReady_enter (s c : State) : (s.enter c).cmdReady = c.cmdReady := rfl

@[simp] theorem State.status_enter (s c : State) : (s.enter c).status = c.status := rfl

end Sys2Proof.Machine
end

