-- ==== Sys2Proof/Laws/Serializer.lean ====
section
/-! SUPPORT. What one tick of the serializer can do, case by case (R160), and the bit operations it
uses. -/

namespace Sys2Proof.Machine

/-- `setBit` changes bit `n` and no other. -/
theorem setBit_getLsbD (w : Word) {n : Nat} (hn : n < 24) (b : Bool) (m : Nat) :
    (setBit w n b).getLsbD m = if m = n then b else w.getLsbD m := by
  unfold setBit
  by_cases hm24 : m < 24
  · cases b <;>
      simp only [Bool.false_eq_true, if_false, if_true, BitVec.getLsbD_and, BitVec.getLsbD_or,
        BitVec.getLsbD_not, BitVec.getLsbD_shiftLeft, BitVec.getLsbD_one, hm24, decide_true,
        Bool.true_and] <;>
      by_cases hm : m = n <;> by_cases hlt : m < n <;>
      (have : m - n = 0 ↔ m ≤ n := by omega) <;> simp [hm, hlt, this] <;> omega
  · have hne : m ≠ n := by omega
    rw [BitVec.getLsbD_of_ge _ _ (Nat.le_of_not_lt hm24), if_neg hne,
      BitVec.getLsbD_of_ge _ _ (Nat.le_of_not_lt hm24)]

/-- Setting a bit to the value it has changes nothing. -/
theorem setBit_same (w : Word) {n : Nat} (hn : n < 24) {b : Bool} (h : w.getLsbD n = b) :
    setBit w n b = w := by
  apply BitVec.eq_of_getLsbD_eq
  intro i _
  rw [setBit_getLsbD w hn]
  split
  · next hi => rw [hi, h]
  · rfl

theorem putBit_same {r : Serializer} {b : Bool} (h : r.shreg.getLsbD r.bitn = b) :
    r.putBit b = r := by
  simp [Serializer.putBit, setBit_same r.shreg r.bitn.isLt h]

/-- The line after `putBit` carries the bit put (R25). -/
theorem putBit_lineBit (r : Serializer) (b : Bool) :
    (r.putBit b).shreg.getLsbD (r.putBit b).bitn = b := by
  have h := setBit_getLsbD r.shreg r.bitn.isLt b r.bitn
  rwa [if_pos rfl] at h

/-- The output equation (R26, R160). -/
theorem tick_dout (p : Params) (fb : Pattern) (start : Bool) (r : Serializer) :
    (r.tick p fb start).dout = ((r.tick p fb start).txState == .high) := rfl

@[simp] theorem drive_loadWord (p : Params) (w : Word) (r : Serializer) :
    (r.loadWord p w).drive = r.loadWord p w := rfl

@[simp] theorem drive_beginSymbol (p : Params) (r : Serializer) :
    (r.beginSymbol p).drive = r.beginSymbol p := rfl

variable {p : Params} {fb : Pattern} {start : Bool} {r : Serializer}

theorem tick_idle_start (h : r.txState = .idle) :
    r.tick p fb true = ({ r with pos := 0 } : Serializer).loadWord p (frameWord p fb 0) := by
  simp [Serializer.tick, Serializer.next, h]

theorem tick_idle_wait (h : r.txState = .idle) :
    r.tick p fb false = { r with dout := false } := by
  simp [Serializer.tick, Serializer.next, Serializer.drive, h]

theorem tick_high_count (h : r.txState = .high) (hc : 0 < r.cnt) :
    r.tick p fb start = { r with cnt := r.cnt - 1, dout := true } := by
  simp [Serializer.tick, Serializer.next, Serializer.drive, h, hc]

theorem tick_high_end (h : r.txState = .high) (hc : r.cnt = 0) :
    r.tick p fb start =
      { r with txState := .low, cnt := p.lo (r.shreg.getLsbD r.bitn) - 1, dout := false } := by
  simp [Serializer.tick, Serializer.next, Serializer.drive, h, hc]

theorem tick_low_count (h : r.txState = .low) (hc : 0 < r.cnt) :
    r.tick p fb start = { r with cnt := r.cnt - 1, dout := false } := by
  simp [Serializer.tick, Serializer.next, Serializer.drive, h, hc]

theorem tick_low_next_bit (h : r.txState = .low) (hc : r.cnt = 0) (hb : 0 < r.bitn.val) :
    r.tick p fb start =
      ({ r with bitn := ⟨r.bitn.val - 1, by omega⟩ } : Serializer).beginSymbol p := by
  simp [Serializer.tick, Serializer.next, h, hc, hb]

theorem tick_low_next_word (h : r.txState = .low) (hc : r.cnt = 0) (hb : r.bitn.val = 0)
    (hp : r.pos.val < 24) :
    r.tick p fb start =
      ({ r with pos := ⟨r.pos.val + 1, by omega⟩ } : Serializer).loadWord p
        (frameWord p fb ⟨r.pos.val + 1, by omega⟩) := by
  simp [Serializer.tick, Serializer.next, h, hc, hb, hp]

theorem tick_low_last (h : r.txState = .low) (hc : r.cnt = 0) (hb : r.bitn.val = 0)
    (hp : r.pos.val = 24) :
    r.tick p fb start =
      { r with pos := 0, bitn := 23, txState := .latch, cnt := p.tLatch - 1, dout := false } := by
  simp [Serializer.tick, Serializer.next, Serializer.drive, h, hc, hb, hp]

theorem tick_latch_count (h : r.txState = .latch) (hc : 0 < r.cnt) :
    r.tick p fb start = { r with cnt := r.cnt - 1, dout := false } := by
  simp [Serializer.tick, Serializer.next, Serializer.drive, h, hc]

theorem tick_latch_end (h : r.txState = .latch) (hc : r.cnt = 0) :
    r.tick p fb start = { r with txState := .idle, dout := false } := by
  simp [Serializer.tick, Serializer.next, Serializer.drive, h, hc]

end Sys2Proof.Machine
end

