-- ==== Sys2Proof/Laws/Step.lean ====
section
/-! SUPPORT. What a step can do, said once: the inversion lemmas of `step`, `coreStep` and the
sequencer's parts, and what each meaning answers. -/

namespace Sys2Proof.Machine

/-! ### The step -/

theorem step_of_reset {s : State} (h : s.entersReset = true) :
    step s = .next (s.enter s.coreReset) := by simp [step, h]

theorem step_of_core {s c : State} (h : s.entersReset = false) (hc : coreStep s = .next c) :
    step s = .next (s.enter c) := by simp [step, h, hc]

/-- A step that goes on is one of reset or one of the core. -/
theorem step_next_iff {s t : State} :
    step s = .next t ↔
      (s.entersReset = true ∧ t = s.enter s.coreReset) ∨
        (s.entersReset = false ∧ ∃ c, coreStep s = .next c ∧ t = s.enter c) := by
  cases hr : s.entersReset
  · cases hc : coreStep s <;> simp [step, hr, hc, eq_comm]
  · simp [step, hr, eq_comm]

/-! ### Meanings always go on -/

theorem execShowdigit_of_le {d : BitVec 4} (h : d.toNat < 10) (s : State) :
    execShowdigit d s =
      .next (startPush s.par.glyphRom[d.toNat]
        { accept (.showdigit d) s with coord := .showDigit d }) := by
  unfold execShowdigit
  rw [renderDigit_of_le (by omega)]
  simp [glyphRead]

theorem execShowdigit_of_gt {d : BitVec 4} (h : ¬d.toNat < 10) (s : State) :
    execShowdigit d s = .next ((complete 1 s).serStep false) := by
  unfold execShowdigit
  rw [renderDigit_of_not_le (by omega)]
  simp

theorem execPlay_of_none {i : Byte} {s : State} (h : animation s.par i = none) :
    execPlay i s = .next ((complete 2 s).serStep false) := by simp [execPlay, h]

theorem execPlay_of_empty {i : Byte} {s : State} (h : animation s.par i = some []) :
    execPlay i s = .next ((complete rspOk s).serStep false) := by simp [execPlay, h]

theorem execPlay_of_frames {i : Byte} {s : State} {f : Pattern} {fs : Animation}
    (h : animation s.par i = some (f :: fs)) :
    execPlay i s = .next (startPush f { accept (.play i) s with coord := .showAnim i }) := by
  simp [execPlay, h]

theorem exec_next (i : Instr) (s : State) : ∃ t, exec i s = .next t := by
  cases i with
  | showdigit d =>
    by_cases h : d.toNat < 10
    · exact ⟨_, execShowdigit_of_le h s⟩
    · exact ⟨_, execShowdigit_of_gt h s⟩
  | clearchar ch => exact ⟨_, rfl⟩
  | play i =>
    rcases h : animation s.par i with _ | _ | ⟨f, fs⟩
    · exact ⟨_, execPlay_of_none h⟩
    · exact ⟨_, execPlay_of_empty h⟩
    · exact ⟨_, execPlay_of_frames h⟩
  | bit0 => exact ⟨_, rfl⟩
  | bit1 => exact ⟨_, rfl⟩
  | word g r b => exact ⟨_, rfl⟩

/-! ### The sequencer -/

/-- Everything a step in `P_INIT` can be (R232, R293). -/
theorem initTick_cases (s : State) :
    (s.handle = .none ∧ s.pins.hwAvail = true ∧
        initTick s = State.serStep false
          { s with handle := .held, seq := .delay, delayCnt := s.par.tLatch - 2 }) ∨
      (s.handle = .none ∧ s.pins.hwAvail = false ∧
        initTick s = State.serStep false { s with phase := .fatal }) ∨
      (s.handle = .held ∧ s.seq = .delay ∧ 0 < s.delayCnt ∧
        initTick s = State.serStep false { s with delayCnt := s.delayCnt - 1 }) ∨
      (s.handle = .held ∧ s.seq = .delay ∧ s.delayCnt = 0 ∧ initTick s = clear s) ∨
      (s.handle = .held ∧ s.seq ≠ .delay ∧ s.ser.txLast = true ∧
        initTick s = State.serStep false { s with seq := .idle, phase := .ready }) ∨
      (s.handle = .held ∧ s.seq ≠ .delay ∧ s.ser.txLast = false ∧
        initTick s = s.serStep false) := by
  cases hh : s.handle
  · cases hw : s.pins.hwAvail
    · right; left; exact ⟨rfl, rfl, by simp [initTick, acquireLine, hh, hw]⟩
    · left; exact ⟨rfl, rfl, by simp [initTick, acquireLine, hh, hw]⟩
  · by_cases hs : s.seq = .delay
    · by_cases hd : 0 < s.delayCnt
      · right; right; left; exact ⟨rfl, hs, hd, by simp [initTick, hh, hs, hd]⟩
      · right; right; right; left
        exact ⟨rfl, hs, by omega, by simp [initTick, hh, hs, hd]⟩
    · cases hl : s.ser.txLast
      · right; right; right; right; right; exact ⟨rfl, hs, rfl, by simp [initTick, hh, hs, hl]⟩
      · right; right; right; right; left; exact ⟨rfl, hs, rfl, by simp [initTick, hh, hs, hl]⟩

/-- After a delay inside a `PLAY` of an existing animation: the next frame or the response. -/
theorem afterDelay_of_play {s : State} {i : Byte} {a : Animation} (hc : s.cur = some (.play i))
    (ha : animation s.par i = some a) :
    (∃ h : s.frameIdx + 1 < a.length,
        afterDelay s =
          .next (startPush a[s.frameIdx + 1] { s with frameIdx := s.frameIdx + 1 })) ∨
      (a.length ≤ s.frameIdx + 1 ∧ afterDelay s = .next ((complete rspOk s).serStep false)) := by
  by_cases h : s.frameIdx + 1 < a.length
  · left; exact ⟨h, by simp [afterDelay, hc, ha, h]⟩
  · right; exact ⟨by omega, by simp [afterDelay, hc, ha, h]⟩

/-- Everything a step in `P_BUSY` that goes on can be (R232). -/
theorem busyTick_cases {s t : State} (h : busyTick s = .next t) :
    (s.seq = .push ∧ s.ser.txLast = false ∧ t = s.serStep false) ∨
      (s.seq = .push ∧ s.ser.txLast = true ∧ t = (afterPush s).serStep false) ∨
      (s.seq = .delay ∧ 0 < s.delayCnt ∧
        t = State.serStep false { s with delayCnt := s.delayCnt - 1 }) ∨
      (s.seq = .delay ∧ s.delayCnt = 0 ∧ afterDelay s = .next t) := by
  unfold busyTick at h
  cases hs : s.seq with
  | idle => simp [hs] at h
  | push =>
    cases hl : s.ser.txLast <;> simp [hs, hl] at h
    · exact .inl ⟨rfl, rfl, h.symm⟩
    · exact .inr (.inl ⟨rfl, rfl, h.symm⟩)
  | delay =>
    by_cases hd : 0 < s.delayCnt <;> simp [hs, hd] at h
    · exact .inr (.inr (.inl ⟨rfl, hd, h.symm⟩))
    · exact .inr (.inr (.inr ⟨rfl, by omega, h⟩))

/-- Everything a step of the core that goes on can be, by phase (R232). -/
theorem coreStep_cases {s t : State} (h : coreStep s = .next t) :
    (s.phase = .init ∧ t = initTick (clearResponse s)) ∨
      (s.phase = .ready ∧ s.pins.cmdValid = false ∧ t = (clearResponse s).serStep false) ∨
      (s.phase = .ready ∧ s.pins.cmdValid = true ∧
        exec (decodeCommand s.pins.cmd) (clearResponse s) = .next t) ∨
      (s.phase = .busy ∧ busyTick (clearResponse s) = .next t) ∨
      (s.phase = .fatal ∧ t = (clearResponse s).serStep false) := by
  unfold coreStep at h
  cases hp : s.phase with
  | init => simp [hp] at h; exact .inl ⟨rfl, h.symm⟩
  | ready =>
    cases hv : s.pins.cmdValid <;> simp [hp, hv] at h
    · exact .inr (.inl ⟨rfl, rfl, h.symm⟩)
    · exact .inr (.inr (.inl ⟨rfl, rfl, h⟩))
  | busy => simp [hp] at h; exact .inr (.inr (.inr (.inl ⟨rfl, h⟩)))
  | fatal => simp [hp] at h; exact .inr (.inr (.inr (.inr ⟨rfl, h.symm⟩)))

/-- No step is refused. -/
theorem step_not_refused (s : State) (r : Refusal) : step s ≠ .refused r := by
  have hcore : coreStep s ≠ .refused r := by
    unfold coreStep
    cases s.phase with
    | init => simp
    | fatal => simp
    | ready =>
      obtain ⟨t, ht⟩ := exec_next (decodeCommand s.pins.cmd) (clearResponse s)
      cases s.pins.cmdValid <;> simp [ht]
    | busy =>
      simp only [busyTick, afterDelay]
      repeat' split
      all_goals simp
  unfold step
  split
  · simp
  · split <;> simp_all

end Sys2Proof.Machine
end

