-- ==== Sys2Proof/Tests/Slice0.lean ====
section
/-! SUPPORT. Tests of the model against the spec's worked examples and vectors (95_test_vectors.md),
the smoke test of WellFormed, and a witness for the hypotheses of every statement that has any. -/

namespace Sys2Proof.Tests

open Sys2Proof Sys2Proof.Machine

/-! ### WellFormed refuses -/

theorem test_wellFormed_digit_ten : (Instr.showdigit 10).wellFormed = false := by decide
theorem test_wellFormed_clearchar_zero : (Instr.clearchar 0x30).wellFormed = false := by decide
theorem test_wellFormed_clearchar_nine : (Instr.clearchar 0x39).wellFormed = false := by decide

/-! ### Decoding: words of section 3, and of R97 and R98, written out -/

theorem test_decode_K2 : decode [0b00110111, 0b0] = .ok (.showdigit 7) := by decide
theorem test_decode_K4 : decode [0b00111001, 0b0] = .ok (.showdigit 9) := by decide
theorem test_decode_K5 : decode [0b00101111, 0b0] = .ok (.clearchar 0x2F) := by decide
theorem test_decode_K6 : decode [0b00111010, 0b0] = .ok (.clearchar 0x3A) := by decide
theorem test_decode_K13 : decode [0b10110000, 0b0] = .ok (.clearchar 0xB0) := by decide
theorem test_decode_K17 : decode [0b00000011, 0b1] = .ok (.play 3) := by decide
theorem test_decode_K18 : decode [0b00110000, 0b1] = .ok (.play 48) := by decide
theorem test_decode_word :
    decode [0b10011001, 0b00110011, 0b01100110] = .ok (.word 0x66 0x33 0x99) := by decide
theorem test_decode_bit0 :
    decode [0b00000000, 0b00000000, 0b11111110, 0b1] = .ok .bit0 := by decide
theorem test_decode_bit1 :
    decode [0b00000000, 0b11111110, 0b11111111, 0b1] = .ok .bit1 := by decide
theorem test_decode_no_symbol :
    decode [0b00000000, 0b00000000, 0b11111100, 0b1] = .error .noSymbol := by decide
theorem test_decode_excess : decode [0b00110111, 0b10] = .error .excessBits := by decide
theorem test_decode_length : decode [0x37] = .error .badLength := by decide
theorem test_encode_play : Sys2Proof.encode (.play 2) = [0x02, 0x01] := by decide

/-- The tick strings of the opcode table are the symbols of the default timing (R98). -/
theorem test_symbol_ticks :
    (List.range 25).map (fun t => bit0Levels.getLsbD (24 - t)) = symbolTicks ParamData.default false ∧
    (List.range 25).map (fun t => bit1Levels.getLsbD (24 - t)) = symbolTicks ParamData.default true := by
  decide

/-! ### Color Encoder: section 2 -/

theorem test_encode_E7 :
    encodeColor .floor ⟨.green, .red, .blue⟩ ⟨-3 / 10, 2, 1 / 4⟩ = 0xFF003F ∧
    encodeColor .nearest ⟨.green, .red, .blue⟩ ⟨-3 / 10, 2, 1 / 4⟩ = 0xFF0040 ∧
    encodeColor .floor ⟨.red, .green, .blue⟩ ⟨-3 / 10, 2, 1 / 4⟩ = 0x00FF3F := by decide +kernel
theorem test_encode_E17 :
    encodeColor .floor ⟨.green, .red, .blue⟩ ⟨1 / 3, 2 / 3, 1 / 7⟩ = 0xAA5524 ∧
    encodeColor .floor ⟨.red, .green, .blue⟩ ⟨1 / 3, 2 / 3, 1 / 7⟩ = 0x55AA24 := by decide +kernel
theorem test_encode_E18 :
    encodeColor .floor ⟨.green, .red, .blue⟩ ⟨1 / 510, 3 / 510, 509 / 510⟩ = 0x0100FE ∧
    encodeColor .nearest ⟨.green, .red, .blue⟩ ⟨1 / 510, 3 / 510, 509 / 510⟩ = 0x0201FF := by
  decide +kernel
theorem test_encode_diagonal :
    Params.default.encode ⟨6 / 5, -1 / 10, 2 / 5⟩ = 0x00FF66 := by decide +kernel

/-! ### Catalogs and wiring: section 5 -/

/-- Chain positions with a lit word when digit 7 is sent under `SERP_TL`. -/
theorem test_glyph_7_serpTL :
    ((List.finRange 25).filter fun pos =>
      frameWord Params.default (glyphRead Params.default 7) pos == 0x663399).map Fin.val =
      [1, 2, 3, 6, 13, 16, 23] := by decide +kernel

/-- The rows of digit 4 as drawn in R186. -/
theorem test_glyph_4_rows :
    (List.finRange 25).map (fun c : Fin 25 => decide (buildDigitGlyphs[(4 : Fin 10)][c] = glyphColor)) =
      [false, true, false, true, false,
       false, true, false, true, false,
       false, true, true, true, false,
       false, false, false, true, false,
       false, false, false, true, false] := by decide +kernel

theorem test_wiring_formulas :
    (List.finRange 25).all (fun p => serpBR[p].val == 24 - serpTL[p].val && raster[p] == p &&
      serpTL[serpTL[p]] == p &&
      serpTL[p].val == (if p.val / 5 % 2 = 0 then p.val else 5 * (p.val / 5) + 4 - p.val % 5)) = true := by
  decide

theorem test_anim_2_serpTL :
    ((List.finRange 25).filter fun pos =>
      (animFrame Params.default 2 0).map (frameWord Params.default · pos) == some 0x00FF66).map
        Fin.val = [0, 8, 12, 16, 24] := by decide +kernel

theorem test_default_durations :
    Params.default.tTx = 15000 ∧ Params.default.tPush = 20600 ∧ Params.default.tInit = 26200 := by
  decide

/-- R264: the debounce window is 4 000 000 ticks of 50 ns. -/
theorem test_debounce_window :
    Config.debounceMs * 1000000 = 4000000 * Params.default.tickNs := by decide

/-! ### Small states -/

/-- A chain that shows black and has seen a low line for long. -/
def quietChain : Chain where
  bits := []
  display := Vector.ofFn fun _ => 0
  hiRun := 0
  loRun := 20000

/-- A ready core of the default instance, the word `w` presented, the display black. -/
def readyWith (w : CmdWord) : State := { State.reset.present w with chain := quietChain }

/-- The state after a step that goes on. -/
def after (s : State) : State :=
  match step s with
  | .next t => t
  | .fault _ => s
  | .refused _ => s

/-- The frame of digit 5 in transmission (the push of section 4.2). -/
def sending (tx : TxState) (pos : Fin 25) (bitn : Fin 24) (cnt : Nat) (shreg : Word) : Serializer where
  txState := tx
  pos := pos
  bitn := bitn
  cnt := cnt
  shreg := shreg
  dout := tx == .high

/-- One tick of the serializer while the glyph of 5 is sent. -/
def tickOf5 (r : Serializer) : Serializer :=
  r.tick Params.default (glyphRead Params.default 5) false

/-! ### The serializer: the table of section 4.2 -/

theorem test_tick_26209 :
    tickOf5 (sending .high 0 23 0 0x000000) = sending .low 0 23 16 0x000000 := by decide +kernel
theorem test_tick_26226 :
    tickOf5 (sending .low 0 23 0 0x000000) = sending .high 0 22 7 0x000000 := by decide +kernel
theorem test_tick_26801 :
    tickOf5 (sending .low 0 0 0 0x000000) = sending .high 1 23 7 0x663399 := by decide +kernel
theorem test_tick_26826 :
    tickOf5 (sending .low 1 23 0 0x663399) = sending .high 1 22 15 0x663399 := by decide +kernel
theorem test_tick_26842 :
    tickOf5 (sending .high 1 22 0 0x663399) = sending .low 1 22 8 0x663399 := by decide +kernel
theorem test_tick_41201 :
    tickOf5 (sending .low 24 0 0 0x000000) = sending .latch 0 23 5599 0x000000 := by decide +kernel
theorem test_tick_46801 :
    tickOf5 (sending .latch 0 23 0 0x000000) = sending .idle 0 23 0 0x000000 := by decide +kernel

/-! ### One step of each instruction -/

/-- R222, the worked example: `STATUS` = `0x0744` at the first tick of `SHOWDIGIT 7`. -/
theorem test_showdigit_7 :
    (after (readyWith 0x037)).status = 0x0744 ∧ (after (readyWith 0x037)).ser.dout = true ∧
      (after (readyWith 0x037)).fb = buildDigitGlyphs[(7 : Fin 10)] := by decide +kernel

/-- R223: `STATUS` = `0x0040` while `CLEARCHAR 'A'` is busy, and a frame is sent in state `Idle` too. -/
theorem test_clearchar_A :
    (after (readyWith 0x041)).status = 0x0040 ∧ (after (readyWith 0x041)).ser.dout = true := by
  decide +kernel

/-- Vector A2: `STATUS` = `0x014C` at the first tick of `PLAY 1`. -/
theorem test_play_1 :
    (after (readyWith 0x101)).status = 0x014C ∧
      some (after (readyWith 0x101)).fb = sweep.head? := by decide +kernel

/-- Vectors A4, A5: `PLAY 3` and `PLAY 255` respond with code 2 and `STATUS` = `0x0061` at once. -/
theorem test_play_unknown :
    (after (readyWith 0x103)).status = 0x0061 ∧ (after (readyWith 0x103)).rspCode = 2 ∧
      (after (readyWith 0x1FF)).rspValid = true ∧ (after (readyWith 0x1FF)).ser.dout = false := by
  decide +kernel

/-- A line symbol placed where the step runs it begins there, with the high time of the other when
its bit is swapped (R98). -/
theorem test_bit0_step :
    (after (State.reset.withFetchWord 32 0x1FE0000)).ser.cnt = 7 ∧
      (after (State.reset.withFetchWord 32 0x1FE0000)).ser.dout = true := by decide +kernel
theorem test_bit1_step :
    (after (State.reset.withFetchWord 32 0x1FFFE00)).ser.cnt = 15 ∧
      (after (State.reset.withFetchWord 32 0x1FFFE00)).ser.dout = true := by decide +kernel

/-- A colour word placed where the step runs it is loaded there. -/
theorem test_word_step :
    (after (State.reset.withFetchWord 24 0x807F81)).ser.shreg = 0x807F81 ∧
      (after (State.reset.withFetchWord 24 0x807F81)).ser.cnt = 15 := by decide +kernel

/-- Vector R-1: tick 1 after reset. -/
theorem test_tick_one :
    (after State.reset).status = 0x0040 ∧ (after State.reset).seq = .delay ∧
      (after State.reset).delayCnt = 5598 := by decide +kernel

/-- Vector R-2: without the hardware, `STATUS` = `0x0002` from tick 1. -/
theorem test_tick_one_fatal :
    (after { State.reset with pins := { State.reset.pins with hwAvail := false } }).status = 0x0002 := by
  decide +kernel

/-! ### The host of a script (R103) -/

/-- A, B, `WAIT`, C at the tick of A's response, at which B is accepted: the `WAIT` is for B's. -/
theorem test_script_wait_is_for_the_command_before :
    (hostDrive { readyWith 0x041 with rspValid := true }
        ⟨[.command 0x041, .wait, .command 0x037], 1, true, true⟩) =
      (idlePins true, ⟨[.wait, .command 0x037], 1, false, true⟩) := by decide

/-- A, `AT t`, `WAIT`, B: a response seen before tick `t` is remembered. -/
theorem test_script_at_before_wait :
    (hostDrive { readyWith 0 with rspValid := true, tick := 8 }
        ⟨[.atTick 10, .wait, .command 0x037], 1, false, true⟩).2 =
      ⟨[.atTick 10, .wait, .command 0x037], 0, false, true⟩ ∧
    (hostDrive { readyWith 0 with tick := 9 }
        ⟨[.atTick 10, .wait, .command 0x037], 0, false, true⟩).1.cmdValid = true := by decide

/-- The latch interval after a last bit 1 begins with the tick after `T1L` low ticks, not after `T0L`
(U15). -/
theorem test_latch_interval_begins :
    (latchesAt Params.default 0 [true] 9 = false) ∧
      (latchesAt Params.default 0 [true] 10 = Config.earlyLatch 0 10) ∧
      (latchesAt Params.default 0 [false] 17 = false) ∧
      (latchesAt Params.default 0 [false] 18 = Config.earlyLatch 0 18) := by
  refine ⟨?_, ?_, ?_, ?_⟩ <;> rfl

/-- A sequence that begins in `P_FATAL` is not good, even if `rst` ends it (log 23). -/
theorem test_fatal_run_not_safe :
    safeRun 1 { State.reset with phase := .fatal, incoming := [{ idlePins true with rst := true }] } =
      false := rfl

/-! ### Witnesses -/

theorem readyWith_coreInv (w : CmdWord) : CoreInv (readyWith w) where
  dout_iff := by simp [readyWith, State.present]
  push_iff := by simp [readyWith, State.present, State.reset, Serializer.reset]
  serializer := ⟨rfl, rfl, rfl⟩
  phases := ⟨rfl, rfl, rfl⟩
  commands := ⟨rfl, rfl⟩
  response := ⟨(fun h => by cases h), fun _ => rfl, Or.inl rfl⟩
  delay_le := Nat.zero_le _

theorem black_frame : ∀ p : Fin 25, (0 : Word) = frameWord Params.default Pattern.zero p := by
  decide +kernel

theorem readyWith_lineInv (w : CmdWord) : LineInv (readyWith w) where
  high_run := by intro h; cases h
  low_run := fun _ => ⟨rfl, show 0 < 20000 by omega⟩
  latched := fun _ => rfl
  reception := by
    refine ⟨?_, fun p => ?_⟩
    · have h := (readyWith w).par.lo_lt_tLatch (readyWith w).lastBit
      have hl : (readyWith w).par.tLatch = 5600 := rfl
      have hr : (readyWith w).chain.loRun = 20000 := rfl
      omega
    · have : (readyWith w).chain.display[p] = 0 := by simp [readyWith, quietChain]
      rw [this]; exact black_frame p

theorem readyWith_step (w : CmdWord) :
    ∃ t, exec (decodeCommand w) (clearResponse (readyWith w)) = .next t ∧
      step (readyWith w) = .next ((readyWith w).enter t) := by
  obtain ⟨t, ht⟩ := exec_next (decodeCommand w) (clearResponse (readyWith w))
  exact ⟨t, ht, step_of_core rfl ht⟩

/-- `CLEARCHAR 'A'` at the first tick of its push. -/
def clearing : State :=
  { readyWith 0x041 with
    phase := .busy, cur := some (.clearchar 0x41), seq := .push
    ser := pushStart Params.default Pattern.zero }

theorem clearing_coreInv : CoreInv clearing where
  dout_iff := by simp [clearing, pushStart]
  push_iff := by simp [clearing, pushStart]
  serializer := ⟨by decide +kernel, rfl⟩
  phases := ⟨rfl, by simp [clearing], by simp [clearing], by simp [clearing]⟩
  commands := ⟨rfl, rfl, rfl, rfl⟩
  response := ⟨(fun h => by cases h), fun _ => rfl, Or.inl rfl⟩
  delay_le := Nat.zero_le _

theorem clearing_step : ∃ t, step clearing = .next t := ⟨_, step_of_core rfl rfl⟩

/-- `PLAY 1` at the last tick of the delay after its frame 0. -/
def delayEnding : State :=
  { readyWith 0x000 with
    phase := .busy, cur := some (.play 1), coord := .showAnim 1, seq := .delay
    fb := cellsPattern ⟨0, 1, 0⟩ [0, 1, 2, 3, 4]
    chain :=
      { bits := []
        display := Vector.ofFn fun p : Fin 25 => if p.val < 5 then 0xFF0000 else 0
        hiRun := 0
        loRun := 4005617 } }

theorem delayEnding_coreInv : CoreInv delayEnding where
  dout_iff := by simp [delayEnding, readyWith, State.present]
  push_iff := by simp [delayEnding, readyWith, State.present]
  serializer := ⟨rfl, rfl, rfl⟩
  phases := ⟨rfl, by simp [delayEnding], by simp [delayEnding], fun _ => ⟨1, rfl⟩⟩
  commands := ⟨rfl, rfl⟩
  response := ⟨(fun h => by cases h), fun _ => rfl, Or.inl rfl⟩
  delay_le := Nat.zero_le _

theorem delayEnding_lineInv : LineInv delayEnding where
  high_run := by intro h; cases h
  low_run := fun _ => ⟨rfl, show 0 < 4005617 by omega⟩
  latched := fun _ => rfl
  reception := by
    have h : delayEnding.showsFrame := by
      show ∀ p : Fin 25, delayEnding.chain.display[p] = frameWord delayEnding.par delayEnding.fb p
      decide +kernel
    exact ⟨by decide +kernel, h⟩

/-- The last tick of the leading gap (R293). -/
def gapEnding : State :=
  { State.reset with
    handle := .held, seq := .delay, tick := 5599
    chain := { quietChain with loRun := 5600 } }

theorem gapEnding_coreInv : CoreInv gapEnding where
  dout_iff := by simp [gapEnding, State.reset, Serializer.reset]
  push_iff := by simp [gapEnding, State.reset, Serializer.reset]
  serializer := ⟨rfl, rfl, rfl⟩
  phases := ⟨rfl, rfl, rfl, by simp [gapEnding]⟩
  commands := ⟨rfl, rfl⟩
  response := ⟨(fun h => by cases h), fun _ => rfl, Or.inl rfl⟩
  delay_le := Nat.zero_le _

theorem gapEnding_lineInv : LineInv gapEnding where
  high_run := by intro h; cases h
  low_run := fun _ => ⟨rfl, show 0 < 5600 by omega⟩
  latched := fun _ => rfl
  reception := ⟨show 5599 < 5600 by omega, fun _ => show 5600 ≤ 5600 + 0 by omega⟩

/-- The catalog of vector A7: animation 1 has no frames. -/
def emptyAnim : Params :=
  ⟨{ ParamData.default with animRom := [diagonal, []] }, by decide +kernel⟩

/-- `PLAY 1` presented to a ready core with that catalog. -/
def emptyReady : State := { readyWith 0x101 with par := emptyAnim }

theorem emptyReady_coreInv : CoreInv emptyReady where
  dout_iff := by simp [emptyReady, readyWith, State.present]
  push_iff := by simp [emptyReady, readyWith, State.present, State.reset, Serializer.reset]
  serializer := ⟨rfl, rfl, rfl⟩
  phases := ⟨rfl, rfl, rfl⟩
  commands := ⟨rfl, rfl⟩
  response := ⟨(fun h => by cases h), fun _ => rfl, Or.inl rfl⟩
  delay_le := Nat.zero_le _

theorem emptyReady_lineInv : LineInv emptyReady where
  high_run := by intro h; cases h
  low_run := fun _ => ⟨rfl, show 0 < 20000 by omega⟩
  latched := fun _ => rfl
  reception := by
    refine ⟨?_, fun p => ?_⟩
    · have h := emptyReady.par.lo_lt_tLatch emptyReady.lastBit
      have hl : emptyReady.par.tLatch = 5600 := rfl
      have hr : emptyReady.chain.loRun = 20000 := rfl
      omega
    · have : emptyReady.chain.display[p] = 0 := by simp [emptyReady, readyWith, quietChain]
      rw [this]; exact black_frame p

theorem witness_EncodeThenDecode :
    (Instr.showdigit 0).wellFormed = true ∧ (Instr.showdigit 9).wellFormed = true ∧
      (Instr.clearchar 0x2F).wellFormed = true ∧ (Instr.clearchar 0x3A).wellFormed = true ∧
      (Instr.play 255).wellFormed = true ∧ (Instr.word 255 0 255).wellFormed = true := by decide

theorem witness_DecodeThenEncode :
    ∃ bytes i, decode bytes = .ok i := ⟨[0x37, 0], .showdigit 7, test_decode_K2⟩

theorem witness_OperandsOfCommandWords :
    (0x30 ≤ (0x30#8).toNat ∧ (0x30#8).toNat ≤ 0x39) ∧ (0x30 ≤ (0x39#8).toNat ∧ (0x39#8).toNat ≤ 0x39) ∧
      (0x2F#8).toNat < 0x30 ∧ 0x39 < (0x3A#8).toNat := by decide

theorem witness_QuantizeOrder :
    ∃ x y : Rat, x ≤ y ∧ 0 ≤ x ∧ y ≤ 1 ∧ 1 / 255 ≤ y - x := ⟨0, 1 / 255, by norm_num⟩

theorem witness_QuantizePreimages : (0 ≤ 254 ∧ 254 ≤ 254) ∧ 255 ≤ 255 := by decide

theorem witness_ChannelIsolation :
    ∃ c c' : Color, c ≠ c' ∧ c.channel .green = c'.channel .green ∧
      c.channel .blue = c'.channel .blue :=
  ⟨⟨0, 0, 0⟩, ⟨2, 0, 0⟩, by simp, rfl, rfl⟩

theorem witness_DigitsDifferOnTheWire : (0 : Fin 10) ≠ 9 := by decide

theorem witness_RenderDigitAnswers :
    ((0 : Int) = (0 : Fin 10).val ∧ (9 : Int) = (9 : Fin 10).val) ∧ (-1 : Int) < 0 ∧ (9 : Int) < 10 := by
  decide

theorem witness_ImageOnBoard :
    ∃ (p : Params) (fb : Pattern) (c : Chain), ∀ pos : Fin 25, c.display[pos] = frameWord p fb pos :=
  ⟨Params.default, Pattern.zero, quietChain, fun pos => by
    have : quietChain.display[pos] = 0 := by simp [quietChain]
    rw [this]; exact black_frame pos⟩

theorem witness_SymbolOnTheLine : 0 < Params.default.tBit ∧ 24 < Params.default.tBit := by decide

theorem witness_WordOnTheLine :
    0 < 24 * Params.default.tBit ∧ 599 < 24 * Params.default.tBit := by decide

theorem witness_PushWaveform :
    Serializer.reset.txState = .idle ∧ 0 < Params.default.tPush ∧ 20599 < Params.default.tPush := by
  decide

theorem witness_PushLastsExactly : Serializer.reset.txState = .idle := rfl

theorem witness_ShowdigitPushesGlyph :
    (0#4).toNat < 10 ∧ (9#4).toNat < 10 ∧ State.reset.ser.txState = .idle := by decide

theorem witness_ShowdigitOutOfRange :
    10 ≤ (10#4).toNat ∧ 10 ≤ (15#4).toNat ∧ State.reset.ser.txState = .idle := by decide

theorem witness_ClearcharPushesBlack : State.reset.ser.txState = .idle := rfl

theorem witness_PlayPushesFirstFrame :
    ∃ (s : State) (i : Byte) (a : Animation), 0 < a.length ∧ s.par.animRom[i.toNat]? = some a ∧
      s.ser.txState = .idle := ⟨State.reset, 2, diagonal, by decide, rfl, rfl⟩

theorem witness_PlayOfEmptyAnimation :
    (∃ (s : State) (i : Byte), s.par.animRom[i.toNat]? = some [] ∧ s.ser.txState = .idle) ∧
    ∃ (s : State) (i : Byte), CoreInv s ∧ LineInv s ∧ s.entersReset = false ∧ s.phase = .ready ∧
      s.pins.cmdValid = true ∧ s.pins.cmd = 1#1 ++ i ∧ s.par.animRom[i.toNat]? = some [] :=
  ⟨⟨{ State.reset with par := emptyAnim }, 1, rfl, rfl⟩,
   emptyReady, 1, emptyReady_coreInv, emptyReady_lineInv, rfl, rfl, rfl, rfl, rfl⟩

theorem witness_PlayOfUnknownIndex :
    (∃ (s : State) (i : Byte), CoreInv s ∧ LineInv s ∧ s.entersReset = false ∧ s.phase = .ready ∧
      s.pins.cmdValid = true ∧ s.pins.cmd = 1#1 ++ i ∧ s.par.animRom.length ≤ i.toNat) ∧
    ∃ (s : State) (i : Byte), CoreInv s ∧ LineInv s ∧ s.entersReset = false ∧ s.phase = .ready ∧
      s.pins.cmdValid = true ∧ s.pins.cmd = 1#1 ++ i ∧ i.toNat < s.par.animRom.length :=
  ⟨⟨readyWith 0x103, 3, readyWith_coreInv _, readyWith_lineInv _, rfl, rfl, rfl, rfl, by decide⟩,
   ⟨readyWith 0x102, 2, readyWith_coreInv _, readyWith_lineInv _, rfl, rfl, rfl, rfl, by decide⟩⟩

theorem witness_InstructionFrames :
    (∃ t, exec .bit0 State.reset = .next t) ∧
      (∃ t, exec (.play 3) State.reset = .next t ∧ animCount State.reset.par 3 = none) ∧
      (∃ t, exec (.clearchar 0) State.reset = .next t ∧ t.seq = .push) :=
  ⟨exec_next _ _,
    ⟨_, show execPlay 3 State.reset = _ from execPlay_of_none (s := State.reset) rfl, rfl⟩,
    ⟨_, rfl, rfl⟩⟩

theorem witness_StepRunsCommand :
    ∃ (s : State) (i : Instr), s.entersReset = false ∧ s.phase = .ready ∧ s.pins.cmdValid = true ∧
      i.wellFormed = true ∧ encodeCode i = .command s.pins.cmd :=
  ⟨readyWith 0x037, .showdigit 7, rfl, rfl, rfl, rfl, rfl⟩

theorem witness_StepRunsSymbol :
    ∃ s : State, 0 < s.ser.bitn.val ∧ s.entersReset = false ∧ s.seq = .push ∧
      (s.phase = .busy ∨ s.phase = .init ∧ s.handle = .held) ∧ s.ser.txState = .low ∧
      s.ser.cnt = 0 :=
  ⟨State.reset.withFetchWord 32 0x1FFFE00, by decide, rfl, rfl, .inr ⟨rfl, rfl⟩, rfl, rfl⟩

theorem witness_StepRunsWord :
    ∃ s : State, s.ser.pos.val < 24 ∧ s.entersReset = false ∧ s.seq = .push ∧
      (s.phase = .busy ∨ s.phase = .init ∧ s.handle = .held) ∧ s.ser.txState = .low ∧
      s.ser.cnt = 0 ∧ s.ser.bitn = 0 :=
  ⟨State.reset.withFetchWord 24 0x807F81, by decide, rfl, rfl, .inr ⟨rfl, rfl⟩, rfl, rfl, rfl⟩

theorem witness_AcceptedExactlyWhenPresented :
    ∃ s t : State, s.entersReset = false ∧ s.phase = .ready ∧ step s = .next t :=
  let ⟨_, _, h⟩ := readyWith_step 0x037
  ⟨readyWith 0x037, _, rfl, rfl, h⟩

theorem witness_PortIgnoredWhenNotReady : State.reset.phase ≠ .ready := by decide

theorem witness_HwAvailSampledOnce :
    ∃ s : State, s.incoming ≠ [] ∧ (s.phase ≠ .init ∨ s.handle = .held) :=
  ⟨{ gapEnding with incoming := [idlePins false] }, by simp, .inr rfl⟩

theorem witness_ResetOverrides : ∃ s : State, s.nextPins.rst = true :=
  ⟨{ clearing with incoming := [{ idlePins true with rst := true }] }, rfl⟩

theorem witness_TickZeroIsReset : ∃ s : State, s.pins.rst = true ∧ s.nextPins.rst = false :=
  ⟨{ State.reset with pins := { idlePins true with rst := true } }, rfl, rfl⟩

theorem witness_StartUpReachesReady :
    State.reset.coreReset = State.reset ∧ State.reset.quietReset ∧ State.reset.pins.hwAvail = true :=
  ⟨rfl, ⟨rfl, by simp [State.reset]⟩, rfl⟩

theorem witness_FatalUntilReset :
    ∃ s : State, s.coreReset = s ∧ s.quietReset ∧ s.pins.hwAvail = false :=
  ⟨{ State.reset with pins := idlePins false }, rfl, ⟨rfl, by simp [State.reset]⟩, rfl⟩

theorem witness_CharacterResponseTime :
    ∃ (s : State) (ch : Byte), CoreInv s ∧ s.phase = .ready ∧ s.quietReset ∧
      s.pins.cmdValid = true ∧ s.pins.cmd = 0#1 ++ ch :=
  ⟨readyWith 0x037, 0x37, readyWith_coreInv _, rfl, ⟨rfl, by simp [readyWith, State.present]⟩, rfl, rfl⟩

theorem witness_PlayResponseTime :
    ∃ (s : State) (i : Byte) (a : Animation), CoreInv s ∧ s.phase = .ready ∧ s.quietReset ∧
      s.pins.cmdValid = true ∧ s.pins.cmd = 1#1 ++ i ∧ s.par.animRom[i.toNat]? = some a ∧ a ≠ [] ∧
      4 < a.length :=
  ⟨readyWith 0x100, 0, burst, readyWith_coreInv _, rfl, ⟨rfl, by simp [readyWith, State.present]⟩,
    rfl, rfl, rfl, by simp [burst], by decide⟩

theorem witness_InvariantsKept :
    (∃ s t : State, CoreInv s ∧ LineInv s ∧ step s = .next t ∧ s.phase = .ready) ∧
      ∃ s t : State, CoreInv s ∧ step s = .next t ∧ s.seq = .push ∧ s.entersReset = false :=
  let ⟨_, _, h⟩ := readyWith_step 0x037
  let ⟨_, h'⟩ := clearing_step
  ⟨⟨readyWith 0x037, _, readyWith_coreInv _, readyWith_lineInv _, h, rfl⟩,
   ⟨clearing, _, clearing_coreInv, h', rfl, rfl⟩⟩

theorem witness_FrameBufferStableDuringPush :
    (∃ s t : State, CoreInv s ∧ s.entersReset = false ∧ step s = .next t ∧ s.seq = .push ∧
      s.ser.txLast = false) ∧
    ∃ s t : State, CoreInv s ∧ s.entersReset = false ∧ step s = .next t ∧ t.fb ≠ s.fb :=
  let ⟨_, h⟩ := clearing_step
  ⟨⟨clearing, _, clearing_coreInv, rfl, h, rfl, rfl⟩,
   ⟨readyWith 0x037, _, readyWith_coreInv _, rfl, step_of_core rfl rfl,
    show buildDigitGlyphs[(7 : Fin 10)] ≠ Pattern.zero by decide +kernel⟩⟩

theorem witness_NeverStuck : CoreInv clearing ∧ CoreInv delayEnding :=
  ⟨clearing_coreInv, delayEnding_coreInv⟩

/-- All three cases: after the leading gap, from a ready core, and inside a `PLAY`. -/
theorem witness_SpacingBetweenFrames :
    (∃ s t : State, CoreInv s ∧ LineInv s ∧ s.entersReset = false ∧ step s = .next t ∧
      s.ser.txState = .idle ∧ t.ser.txState = .high ∧ s.phase = .init) ∧
    (∃ s t : State, CoreInv s ∧ LineInv s ∧ s.entersReset = false ∧ step s = .next t ∧
      s.ser.txState = .idle ∧ t.ser.txState = .high ∧ s.phase = .ready) ∧
    ∃ s t : State, CoreInv s ∧ LineInv s ∧ s.entersReset = false ∧ step s = .next t ∧
      s.ser.txState = .idle ∧ t.ser.txState = .high ∧ s.phase = .busy :=
  ⟨⟨gapEnding, _, gapEnding_coreInv, gapEnding_lineInv, rfl, step_of_core rfl rfl, rfl, rfl, rfl⟩,
   ⟨readyWith 0x041, _, readyWith_coreInv _, readyWith_lineInv _, rfl, step_of_core rfl rfl, rfl, rfl,
    rfl⟩,
   ⟨delayEnding, _, delayEnding_coreInv, delayEnding_lineInv, rfl, step_of_core rfl rfl, rfl, rfl, rfl⟩⟩

theorem witness_ReadyShowsImage :
    ∃ s : State, CoreInv s ∧ LineInv s ∧ s.phase = .ready :=
  ⟨readyWith 0, readyWith_coreInv _, readyWith_lineInv _, rfl⟩

/-- For the statements whose only hypothesis is a step that goes on, with and without a reset. -/
theorem witness_StepGoesOn :
    (∃ s t : State, s.entersReset = false ∧ step s = .next t) ∧
      ∃ s t : State, s.entersReset = true ∧ step s = .next t :=
  ⟨⟨clearing, _, rfl, clearing_step.choose_spec⟩,
   ⟨{ clearing with incoming := [{ idlePins true with rst := true }] }, _, rfl, step_of_reset rfl⟩⟩

theorem witness_StatusFields :
    (∃ s : State, s.phase = .ready ∧ s.coord = .showDigit 7 ∧ s.handle = .held ∧ s.lastRsp = 0) ∧
    ∃ s t : State, s.entersReset = false ∧ step s = .next t ∧ s.status.getLsbD 1 = true :=
  ⟨⟨{ readyWith 0 with coord := .showDigit 7 }, rfl, rfl, rfl, rfl⟩,
   { readyWith 0 with phase := .fatal }, _, rfl, step_of_core rfl rfl, rfl⟩

theorem witness_PulseBecomesBit :
    ∃ c c' : Chain, c.hiRun = Params.default.t0h ∧ c.loRun = 0 ∧ c'.hiRun = Params.default.t1h ∧
      c'.loRun = 0 :=
  ⟨{ quietChain with hiRun := 8, loRun := 0 }, { quietChain with hiRun := 16, loRun := 0 }, rfl, rfl,
    rfl, rfl⟩

theorem witness_LatchAppliesCompleteWords :
    ∃ c : Chain, 24 * ((0 : Fin 25).val + 1) ≤ c.bits.length ∧ c.bits.length ≤ 24 * (1 : Fin 25).val :=
  ⟨{ quietChain with bits := List.replicate 24 true }, by decide⟩

theorem witness_AssemblerAgreesWithDecoder :
    assemble (.showdigit 9) ≠ none ∧ assemble (.showdigit 10) = none ∧
      assemble (.clearchar 0x2F) ≠ none ∧ assemble (.clearchar 0x30) = none ∧
      assemble (.clearchar 0x39) = none ∧ assemble (.clearchar 0x3A) ≠ none ∧
      assemble (.play 255) ≠ none ∧ assemble (.play 256) = none ∧ assemble (.char 256) = none ∧
      assemble (.char 0x30) = some 0x030 ∧ assemble (.char 0x39) = some 0x039 ∧
      assemble (.digit 9) = some 0x039 ∧ assemble (.digit 10) = none := by
  decide

end Sys2Proof.Tests
end

section
/-! Proofs about the state: what a step does to `FB` (R37), and the fields of `STATUS` (R28). -/

namespace Sys2Proof.Machine

/-! ### What the sequencer's parts can do -/

theorem afterPush_cases (s : State) :
    afterPush s = { s with seq := .delay, delayCnt := s.par.tFrame - 1 } ∨
      afterPush s = complete rspOk s := by
  unfold afterPush
  split
  · exact .inl rfl
  · exact .inr rfl

@[simp] theorem afterPush_fb (s : State) : (afterPush s).fb = s.fb := by
  obtain h | h := afterPush_cases s <;> simp [h]

/-- A delay that ends without a fault is followed by the next frame's push or by the response (R232). -/
theorem afterDelay_cases {s t : State} (h : afterDelay s = .next t) :
    (∃ m k, t = startPush m { s with frameIdx := k }) ∨ t = (complete rspOk s).serStep false := by
  unfold afterDelay at h
  split at h
  · split at h
    · split at h
      · exact .inl ⟨_, _, (Host.Outcome.next.inj h).symm⟩
      · exact .inr (Host.Outcome.next.inj h).symm
    · cases h
  · cases h

/-- Everything an instruction can do: start a push, complete with a response, or put a word or symbol
on the line. -/
theorem exec_cases {i : Instr} {s t : State} (h : exec i s = .next t) :
    (∃ m c co, t = startPush m { accept c s with coord := co }) ∨
      (∃ code, t = (complete code s).serStep false) ∨ ∃ r, t = { s with ser := r } := by
  cases i with
  | showdigit d =>
    change execShowdigit d s = .next t at h
    by_cases hd : d.toNat < 10
    · rw [execShowdigit_of_le hd] at h
      exact .inl ⟨_, _, _, (Host.Outcome.next.inj h).symm⟩
    · rw [execShowdigit_of_gt hd] at h
      exact .inr (.inl ⟨_, (Host.Outcome.next.inj h).symm⟩)
  | clearchar ch => exact .inl ⟨_, _, _, (Host.Outcome.next.inj h).symm⟩
  | play i =>
    change execPlay i s = .next t at h
    rcases ha : animation s.par i with _ | _ | ⟨f, fs⟩
    · rw [execPlay_of_none ha] at h
      exact .inr (.inl ⟨_, (Host.Outcome.next.inj h).symm⟩)
    · rw [execPlay_of_empty ha] at h
      exact .inr (.inl ⟨_, (Host.Outcome.next.inj h).symm⟩)
    · rw [execPlay_of_frames ha] at h
      exact .inl ⟨_, _, _, (Host.Outcome.next.inj h).symm⟩
  | bit0 => exact .inr (.inr ⟨_, (Host.Outcome.next.inj h).symm⟩)
  | bit1 => exact .inr (.inr ⟨_, (Host.Outcome.next.inj h).symm⟩)
  | word g r b => exact .inr (.inr ⟨_, (Host.Outcome.next.inj h).symm⟩)

/-! ### `FB` is written only as a push starts (R37) -/

/-- From `s` to `t` the sequencer raises `start` for the Matrix that `t` has in `FB` (R232). -/
def State.BeginsPush (s t : State) : Prop :=
  t.seq = .push ∧ t.ser = s.ser.tick s.par t.fb true

theorem startPush_beginsPush (m : Pattern) {s u : State} (hser : u.ser = s.ser)
    (hpar : u.par = s.par) : s.BeginsPush (startPush m u) := by
  simp [State.BeginsPush, hser, hpar]

theorem exec_fb_or_beginsPush {i : Instr} {s t : State} (h : exec i s = .next t) :
    t.fb = s.fb ∨ s.BeginsPush t := by
  obtain ⟨m, c, co, rfl⟩ | ⟨code, rfl⟩ | ⟨r, rfl⟩ := exec_cases h
  · exact .inr (startPush_beginsPush m rfl rfl)
  · exact .inl rfl
  · exact .inl rfl

theorem initTick_fb_or_beginsPush (s : State) :
    (initTick s).fb = s.fb ∨ s.seq ≠ .push ∧ s.BeginsPush (initTick s) := by
  obtain ⟨-, -, h⟩ | ⟨-, -, h⟩ | ⟨-, -, -, h⟩ | ⟨-, hs, -, h⟩ | ⟨-, -, -, h⟩ | ⟨-, -, -, h⟩ :=
    initTick_cases s <;> rw [h]
  · exact .inl rfl
  · exact .inl rfl
  · exact .inl rfl
  · exact .inr ⟨by simp [hs], startPush_beginsPush Pattern.zero rfl rfl⟩
  · exact .inl rfl
  · exact .inl rfl

theorem busyTick_fb_or_beginsPush {s t : State} (h : busyTick s = .next t) :
    t.fb = s.fb ∨ s.seq ≠ .push ∧ s.BeginsPush t := by
  obtain ⟨-, -, rfl⟩ | ⟨-, -, rfl⟩ | ⟨-, -, rfl⟩ | ⟨hs, -, hd⟩ := busyTick_cases h
  · exact .inl rfl
  · exact .inl (afterPush_fb s)
  · exact .inl rfl
  · obtain ⟨m, k, rfl⟩ | rfl := afterDelay_cases hd
    · exact .inr ⟨by simp [hs], startPush_beginsPush m rfl rfl⟩
    · exact .inl rfl

theorem CoreInv.seq_idle_of_ready {s : State} (hi : CoreInv s) (hp : s.phase = .ready) :
    s.seq = .idle := by
  have hphase := hi.phases
  simp only [State.phaseOk, hp] at hphase
  exact hphase.2.2

/-- The core leaves `FB` alone or starts the push of what it writes there, and that never during a
push. -/
theorem coreStep_fb_or_beginsPush {s t : State} (hi : CoreInv s) (h : coreStep s = .next t) :
    t.fb = s.fb ∨ s.seq ≠ .push ∧ s.BeginsPush t := by
  obtain ⟨-, rfl⟩ | ⟨-, -, rfl⟩ | ⟨hp, -, he⟩ | ⟨-, hb⟩ | ⟨-, rfl⟩ := coreStep_cases h
  · exact initTick_fb_or_beginsPush (clearResponse s)
  · exact .inl rfl
  · exact (exec_fb_or_beginsPush he).imp_right fun hbegin =>
      ⟨by simp [hi.seq_idle_of_ready hp], hbegin⟩
  · exact busyTick_fb_or_beginsPush (s := clearResponse s) hb
  · exact .inl rfl

/-- The first tick of a push, out of an idle serializer (R160). -/
theorem CoreInv.tick_start_eq_pushStart {s : State} (hi : CoreInv s) (hseq : s.seq ≠ .push)
    (m : Pattern) : s.ser.tick s.par m true = pushStart s.par m := by
  have hidle : s.ser.txState = .idle := by_contra fun h => hseq (hi.push_iff.mpr h)
  rw [tick_idle_start hidle]
  rfl

/-- A push runs in `P_INIT` with the line held or in `P_BUSY` (R36). -/
theorem CoreInv.phase_of_push {s : State} (hi : CoreInv s) (hseq : s.seq = .push) :
    (s.phase = .init ∧ s.handle = .held) ∨ s.phase = .busy := by
  have hphase := hi.phases
  cases hp : s.phase <;> simp_all [State.phaseOk]

/-- Until a push has completed the core only lets the serializer go on (R37). -/
theorem coreStep_during_push {s : State} (hi : CoreInv s) (hseq : s.seq = .push)
    (hlast : s.ser.txLast = false) : coreStep s = .next ((clearResponse s).serStep false) := by
  obtain ⟨hp, hh⟩ | hp := hi.phase_of_push hseq
  · simp [coreStep, initTick, hp, hh, hseq, hlast]
  · simp [coreStep, busyTick, hp, hseq, hlast]

/-- Settles O46: a core step leaves `FB` alone or begins a push, by cases on the phase. -/
theorem frameBufferStableDuringPush : Obligations.FrameBufferStableDuringPush := by
  intro s t hi hr h
  obtain ⟨hr', -⟩ | ⟨-, c, hc, rfl⟩ := step_next_iff.mp h
  · simp [hr] at hr'
  have hfb := coreStep_fb_or_beginsPush hi hc
  refine ⟨fun hseq => ?_, fun hne => ?_, fun hseq hlast => ?_⟩
  · exact hfb.resolve_right fun hbegin => hbegin.1 hseq
  · obtain ⟨hseq, hpush, hser⟩ := hfb.resolve_left hne
    exact ⟨hpush, hser.trans (hi.tick_start_eq_pushStart hseq c.fb)⟩
  · rw [coreStep_during_push hi hseq hlast] at hc
    cases hc
    exact ⟨hseq, rfl, rfl⟩

/-! ### `STATUS`, field by field (R28) -/

theorem status_ready (s : State) : s.status.getLsbD 0 = s.cmdReady := by
  simp only [State.status, BitVec.getLsbD_append]
  simp

theorem status_fatal (s : State) : s.status.getLsbD 1 = decide (s.phase = .fatal) := by
  simp only [State.status, BitVec.getLsbD_append]
  simp [beq_eq_decide]

theorem status_showing (s : State) : s.status.getLsbD 2 = s.coord.showing := by
  simp only [State.status, BitVec.getLsbD_append]
  simp

theorem status_kind (s : State) : s.status.getLsbD 3 = s.coord.kind := by
  simp only [State.status, BitVec.getLsbD_append]
  simp

/-- `LAST_RSP` stands above the four one-bit fields `READY`, `FATAL`, `SHOWING` and `KIND`. -/
theorem status_lastRsp (s : State) : s.status.extractLsb' 4 2 = s.lastRsp := by
  unfold State.status
  iterate 4 rw [BitVec.extractLsb'_append_eq_of_le (by decide)]
  exact BitVec.extractLsb'_append_eq_right

theorem status_handle (s : State) : s.status.getLsbD 6 = decide (s.handle = .held) := by
  simp only [State.status, BitVec.getLsbD_append]
  simp [beq_eq_decide]

theorem status_reserved (s : State) : s.status.getLsbD 7 = false := by
  simp only [State.status, BitVec.getLsbD_append]
  simp

/-- `ID` stands above the seven fields of bits 7:0. -/
theorem status_id (s : State) : s.status.extractLsb' 8 8 = s.coord.id := by
  unfold State.status
  iterate 7 rw [BitVec.extractLsb'_append_eq_of_le (by decide)]
  exact BitVec.extractLsb'_eq_self

theorem State.cmdReady_eq (s : State) : s.cmdReady = decide (s.phase = .ready) :=
  beq_eq_decide s.phase .ready

theorem Coord.showing_eq (c : Coord) : c.showing = decide (c ≠ .idle) := by
  cases c <;> simp [Coord.showing]

theorem Coord.kind_iff (c : Coord) : c.kind = true ↔ ∃ i, c = .showAnim i := by
  cases c <;> simp [Coord.kind]

theorem Coord.showDigit_id_toNat (d : BitVec 4) : (Coord.showDigit d).id.toNat = d.toNat :=
  BitVec.toNat_setWidth_of_le (by decide)

theorem coreReset_status (s : State) : s.coreReset.status = 0 := by
  simp only [State.status, State.cmdReady, State.coreReset_coord, State.coreReset_handle,
    State.coreReset_lastRsp, State.coreReset_phase]
  decide

/-- R28: the worked example, `SHOWDIGIT 7` shown and the core ready. -/
theorem status_worked_example {s : State} (hp : s.phase = .ready) (hc : s.coord = .showDigit 7)
    (hh : s.handle = .held) (hl : s.lastRsp = 0) : s.status = 0x0745 := by
  simp only [State.status, State.cmdReady, hp, hc, hh, hl]
  decide

/-! ### `LAST_RSP` takes the code of a response and else stays (R28, R229) -/

/-- `last_rsp` of `t` is the code of the response `t` gives, and that of `s` when `t` gives none. -/
def State.RecordsResponse (s t : State) : Prop :=
  t.lastRsp = if t.rspValid then t.rspCode else s.lastRsp

theorem recordsResponse_of_silent {s t : State} (hvalid : t.rspValid = false)
    (hlast : t.lastRsp = s.lastRsp) : s.RecordsResponse t := by
  simp [State.RecordsResponse, hvalid, hlast]

theorem recordsResponse_complete (code : BitVec 2) (s u : State) :
    s.RecordsResponse ((complete code u).serStep false) := by
  simp [State.RecordsResponse]

theorem exec_recordsResponse {i : Instr} {s t : State} (hv : s.rspValid = false)
    (h : exec i s = .next t) : s.RecordsResponse t := by
  obtain ⟨m, c, co, rfl⟩ | ⟨code, rfl⟩ | ⟨r, rfl⟩ := exec_cases h
  · exact recordsResponse_of_silent hv rfl
  · exact recordsResponse_complete code s s
  · exact recordsResponse_of_silent hv rfl

theorem initTick_recordsResponse {s : State} (hv : s.rspValid = false) :
    s.RecordsResponse (initTick s) := by
  obtain ⟨-, -, h⟩ | ⟨-, -, h⟩ | ⟨-, -, -, h⟩ | ⟨-, -, -, h⟩ | ⟨-, -, -, h⟩ | ⟨-, -, -, h⟩ :=
    initTick_cases s <;> rw [h] <;> exact recordsResponse_of_silent hv rfl

theorem busyTick_recordsResponse {s t : State} (hv : s.rspValid = false)
    (h : busyTick s = .next t) : s.RecordsResponse t := by
  obtain ⟨-, -, rfl⟩ | ⟨-, -, rfl⟩ | ⟨-, -, rfl⟩ | ⟨-, -, hd⟩ := busyTick_cases h
  · exact recordsResponse_of_silent hv rfl
  · obtain ha | ha := afterPush_cases s <;> rw [ha]
    · exact recordsResponse_of_silent hv rfl
    · exact recordsResponse_complete rspOk s s
  · exact recordsResponse_of_silent hv rfl
  · obtain ⟨m, k, rfl⟩ | rfl := afterDelay_cases hd
    · exact recordsResponse_of_silent hv rfl
    · exact recordsResponse_complete rspOk s s

theorem coreStep_recordsResponse {s t : State} (h : coreStep s = .next t) :
    s.RecordsResponse t := by
  change (clearResponse s).RecordsResponse t
  obtain ⟨-, rfl⟩ | ⟨-, -, rfl⟩ | ⟨-, -, he⟩ | ⟨-, hb⟩ | ⟨-, rfl⟩ := coreStep_cases h
  · exact initTick_recordsResponse rfl
  · exact recordsResponse_of_silent rfl rfl
  · exact exec_recordsResponse rfl he
  · exact busyTick_recordsResponse rfl hb
  · exact recordsResponse_of_silent rfl rfl

/-- Out of `P_FATAL` no step of the core leads (R252, R257). -/
theorem coreStep_fatal {s t : State} (hp : s.phase = .fatal) (h : coreStep s = .next t) :
    t.phase = .fatal := by
  simp only [coreStep, hp, Host.Outcome.next.injEq] at h
  rw [← h]
  exact hp

/-- Settles O50: the fields one by one, and `last_rsp` and `P_FATAL` along a step of the core. -/
theorem statusFields : Obligations.StatusFields := by
  refine ⟨fun s => ⟨?ready, status_ready s, status_fatal s, ?showing, ?kind, status_lastRsp s,
      status_handle s, status_reserved s, ?idle, ?digit, ?anim, coreReset_status s⟩,
    fun _ => status_worked_example, ?step⟩
  case ready => exact (status_ready s).trans s.cmdReady_eq
  case showing => exact (status_showing s).trans s.coord.showing_eq
  case kind => rw [status_kind, s.coord.kind_iff]
  case idle => intro hc; rw [status_id, hc, Coord.id]
  case digit => intro d hc; rw [status_id, hc, Coord.showDigit_id_toNat]
  case anim => intro i hc; rw [status_id, hc, Coord.id]
  case step =>
    intro s t hr h
    obtain ⟨hr', -⟩ | ⟨-, c, hc, rfl⟩ := step_next_iff.mp h
    · simp [hr] at hr'
    simp only [status_fatal, status_lastRsp, State.enter_phase, State.enter_lastRsp,
      State.enter_rspValid, State.enter_rspCode]
    exact ⟨fun hp => decide_eq_true (coreStep_fatal (of_decide_eq_true hp) hc),
      coreStep_recordsResponse hc⟩

end Sys2Proof.Machine
end

section
/-! Proofs about the encoding: what a command word decodes to (R92, R93) and the decode table (R94). -/

namespace Sys2Proof

/-! ### Fields of a command word -/

theorem tagBit_eq_decide (w : CmdWord) : tagBit w = decide (0x100 ≤ w.toNat) :=
  (BitVec.msb_eq_getLsbD_last w).symm.trans (BitVec.msb_eq_decide w)

theorem payload_toNat (w : CmdWord) : (payload w).toNat = w.toNat % 0x100 := by
  simp [payload]

@[simp] theorem payload_append (tag : BitVec 1) (ch : Byte) : payload (tag ++ ch) = ch :=
  BitVec.extractLsb'_append_eq_right

/-- `TAG` has the weight `0x100` above the payload (R91). -/
theorem cmdWord_append_toNat (tag : BitVec 1) (ch : Byte) :
    (tag ++ ch : CmdWord).toNat = 0x100 * tag.toNat + ch.toNat := by
  rw [BitVec.toNat_append, ← Nat.shiftLeft_add_eq_or_of_lt ch.isLt, Nat.shiftLeft_eq, Nat.mul_comm]

theorem isDigitCode_iff (ch : Byte) :
    isDigitCode ch = true ↔ 0x30 ≤ ch.toNat ∧ ch.toNat ≤ 0x39 := by
  simp [isDigitCode, BitVec.le_def]

/-- The low nibble of a digit's code is the digit. -/
theorem extractLsb'_digitCode_toNat {ch : Byte} (h : 0x30 ≤ ch.toNat ∧ ch.toNat ≤ 0x39) :
    (ch.extractLsb' 0 4).toNat + 0x30 = ch.toNat := by
  simp only [BitVec.extractLsb'_toNat, Nat.shiftRight_zero]
  omega

/-! ### The three equations of the decoder, one for each command -/

theorem decodeCommand_of_tag {w : CmdWord} (h : 0x100 ≤ w.toNat) :
    decodeCommand w = .play (payload w) := by
  simp [decodeCommand, tagBit_eq_decide, h]

theorem decodeCommand_of_digitCode {w : CmdWord} (h : 0x30 ≤ w.toNat ∧ w.toNat ≤ 0x39) :
    decodeCommand w = .showdigit ((payload w).extractLsb' 0 4) := by
  have htag : ¬ 0x100 ≤ w.toNat := by omega
  have hdigit : isDigitCode (payload w) = true := by
    rw [isDigitCode_iff, payload_toNat]; omega
  simp [decodeCommand, tagBit_eq_decide, htag, hdigit]

theorem decodeCommand_of_other {w : CmdWord}
    (h : w.toNat < 0x30 ∨ 0x39 < w.toNat ∧ w.toNat < 0x100) :
    decodeCommand w = .clearchar (payload w) := by
  have htag : ¬ 0x100 ≤ w.toNat := by omega
  have hdigit : ¬ isDigitCode (payload w) = true := by
    rw [isDigitCode_iff, payload_toNat]; omega
  simp [decodeCommand, tagBit_eq_decide, htag, hdigit]

/-- Settles O4: the decoder's three equations at a word written as tag and payload. -/
theorem operandsOfCommandWords : Obligations.OperandsOfCommandWords := by
  refine ⟨fun ch hlo hhi => ?digit, fun ch hch => ?other, fun i => ?tag⟩
  case digit =>
    refine ⟨ch.extractLsb' 0 4, ?_, extractLsb'_digitCode_toNat ⟨hlo, hhi⟩⟩
    rw [decodeCommand_of_digitCode, payload_append]
    simp [cmdWord_append_toNat, hlo, hhi]
  case other =>
    rw [decodeCommand_of_other, payload_append]
    simp [cmdWord_append_toNat, hch, ch.isLt]
  case tag =>
    rw [decodeCommand_of_tag, payload_append]
    simp [cmdWord_append_toNat]

/-! ### The decode table: each row matches an interval of command words -/

/-- The mnemonic of the command word with value `n` (R92, R93). -/
def mnemonicAt (n : Nat) : String :=
  if 0x100 ≤ n then "PLAY" else if 0x30 ≤ n ∧ n ≤ 0x39 then "SHOWDIGIT" else "CLEARCHAR"

theorem decodeCommand_mnemonic (w : CmdWord) : (decodeCommand w).mnemonic = mnemonicAt w.toNat := by
  unfold mnemonicAt
  split_ifs with htag hdigit
  · rw [decodeCommand_of_tag htag, Instr.mnemonic]
  · rw [decodeCommand_of_digitCode hdigit, Instr.mnemonic]
  · rw [decodeCommand_of_other (by omega), Instr.mnemonic]

/-- The first value after a row's words, which are as many as its mask leaves free. -/
def CommandRow.past (row : CommandRow) : Nat := row.pattern.toNat + (512 - row.mask.toNat)

/-- `n` lies in the row's interval, which starts at its pattern; tied to `hits` by
`hits_eq_covers`. -/
def CommandRow.covers (row : CommandRow) (n : Nat) : Bool :=
  decide (row.pattern.toNat ≤ n ∧ n < row.past)

/-- Every mask of the table leaves the low `k` bits free, and the pattern has none of them set. -/
theorem commandRows_free_low_bits : ∀ row ∈ commandRows, ∃ k ≤ 8,
    row.mask = BitVec.allOnes 9 <<< k ∧ row.past = row.pattern.toNat + 2 ^ k ∧
      2 ^ k ∣ row.pattern.toNat := by
  decide

theorem and_allOnes_shiftLeft_toNat (w : CmdWord) (k : Nat) :
    (w &&& BitVec.allOnes 9 <<< k).toNat = w.toNat / 2 ^ k * 2 ^ k := by
  rw [← BitVec.shiftLeft_ushiftRight, BitVec.toNat_shiftLeft, BitVec.toNat_ushiftRight,
    Nat.shiftLeft_eq, Nat.shiftRight_eq_div_pow]
  exact Nat.mod_eq_of_lt ((Nat.div_mul_le_self _ _).trans_lt w.isLt)

/-- Comparing under the mask is comparing quotients by `2 ^ k`. -/
theorem hits_eq_covers {row : CommandRow} (hrow : row ∈ commandRows) (w : CmdWord) :
    row.hits w = row.covers w.toNat := by
  obtain ⟨k, -, hmask, hpast, q, hq⟩ := commandRows_free_low_bits row hrow
  have hpos : 0 < 2 ^ k := Nat.two_pow_pos k
  rw [CommandRow.hits, beq_eq_decide, CommandRow.covers, hpast, decide_eq_decide,
    ← BitVec.toNat_inj, hmask, and_allOnes_shiftLeft_toNat, hq, Nat.mul_comm (2 ^ k) q,
    Nat.mul_left_inj hpos.ne', Nat.div_eq_iff hpos]
  omega

/-- R94: the patterns are pairwise disjoint, since one row's interval ends before the other's. -/
theorem commandRows_disjoint (n : Nat) :
    commandRows.Pairwise fun r r' => ¬(r.covers n = true ∧ r'.covers n = true) := by
  have hends : commandRows.Pairwise fun r r' =>
      r.past ≤ r'.pattern.toNat ∨ r'.past ≤ r.pattern.toNat := by decide
  refine hends.imp fun {r r'} hend => ?_
  simp only [CommandRow.covers, decide_eq_true_eq]
  omega

/-- R94: the nine rows cover all command words, each with its own mnemonic. -/
theorem exists_commandRow_covers {n : Nat} (hn : n < 512) :
    ∃ row ∈ commandRows, row.covers n = true ∧ row.mnemonic = mnemonicAt n := by
  simp only [commandRows, CommandRow.covers, CommandRow.past, List.exists_mem_cons_iff, mnemonicAt]
  split_ifs <;> simp <;> omega

/-- A predicate that no two elements of a list share lets through just the one it holds of. -/
theorem filter_eq_singleton_of_pairwise {α : Type} {p : α → Bool} {l : List α} {a : α}
    (hl : l.Pairwise fun x y => ¬(p x = true ∧ p y = true)) (ha : a ∈ l) (hp : p a = true) :
    l.filter p = [a] := by
  have hmem : a ∈ l.filter p := List.mem_filter.mpr ⟨ha, hp⟩
  have hpair := hl.filter p
  have hall : ∀ x ∈ l.filter p, p x = true := fun x hx => (List.mem_filter.mp hx).2
  match l.filter p, hmem, hpair, hall with
  | [x], hmem, _, _ => rw [List.mem_singleton.mp hmem]
  | x :: y :: _, _, hpair, hall =>
    exact absurd ⟨hall x (by simp), hall y (by simp)⟩ (List.rel_of_pairwise_cons hpair (by simp))

/-! ### How many words each command has -/

/-- The words of a command are counted as the elements of the set of their values. -/
theorem countP_mnemonic {name : String} {S : Finset Nat}
    (hS : ∀ n, n ∈ S ↔ n < 512 ∧ mnemonicAt n = name) :
    ((List.range 512).countP fun n => (decodeCommand (BitVec.ofNat 9 n)).mnemonic == name) =
      S.card := by
  have hfilter : S = (Finset.range 512).filter (mnemonicAt · = name) := by ext n; simp [hS]
  rw [hfilter, ← Nat.count_eq_card_filter_range, Nat.count]
  refine List.countP_congr fun n hn => ?_
  rw [decodeCommand_mnemonic, BitVec.toNat_ofNat, Nat.mod_eq_of_lt (List.mem_range.mp hn),
    beq_iff_eq, decide_eq_true_eq]

theorem mem_showdigit_words (n : Nat) :
    n ∈ Finset.Ico 0x30 0x3A ↔ n < 512 ∧ mnemonicAt n = "SHOWDIGIT" := by
  rw [Finset.mem_Ico, mnemonicAt]
  split_ifs <;> simp <;> omega

theorem mem_clearchar_words (n : Nat) :
    n ∈ Finset.range 0x30 ∪ Finset.Ico 0x3A 0x100 ↔ n < 512 ∧ mnemonicAt n = "CLEARCHAR" := by
  rw [Finset.mem_union, Finset.mem_range, Finset.mem_Ico, mnemonicAt]
  split_ifs <;> simp <;> omega

theorem mem_play_words (n : Nat) :
    n ∈ Finset.Ico 0x100 0x200 ↔ n < 512 ∧ mnemonicAt n = "PLAY" := by
  rw [Finset.mem_Ico, mnemonicAt]
  split_ifs <;> simp <;> omega

/-- Settles O3: every row is an interval, and the intervals partition the 512 words. -/
theorem commandTableDecodes : Obligations.CommandTableDecodes := by
  refine ⟨fun w => ?rows, ?showdigit, ?clearchar, ?play⟩
  case rows =>
    obtain ⟨row, hrow, hcovers, hname⟩ := exists_commandRow_covers w.isLt
    rw [List.filter_congr fun row hrow => hits_eq_covers hrow w,
      filter_eq_singleton_of_pairwise (commandRows_disjoint w.toNat) hrow hcovers,
      List.map_singleton, hname, decodeCommand_mnemonic]
  case showdigit => rw [countP_mnemonic mem_showdigit_words, Nat.card_Ico]
  case clearchar =>
    have hdisjoint : Disjoint (Finset.range 0x30) (Finset.Ico 0x3A 0x100) := by
      refine Finset.disjoint_left.mpr fun n hlow hhigh => ?_
      rw [Finset.mem_range] at hlow
      rw [Finset.mem_Ico] at hhigh
      omega
    rw [countP_mnemonic mem_clearchar_words, Finset.card_union_of_disjoint hdisjoint,
      Finset.card_range, Nat.card_Ico]
  case play => rw [countP_mnemonic mem_play_words, Nat.card_Ico]

end Sys2Proof
end

section
/-! Proofs about the Color Encoder: each byte of a word is its own channel's (R125), and the words of
black and white (R123). -/

namespace Sys2Proof.Machine

/-! ### The bytes of a colour word (R120) -/

@[simp] theorem encodeColor_first_byte (mode : RoundMode) (order : ChannelOrder) (c : Color) :
    (encodeColor mode order c).extractLsb' 16 8 = quantize mode (c.channel order.first) := by
  unfold encodeColor
  iterate 2 rw [BitVec.extractLsb'_append_eq_of_le (by decide)]
  exact BitVec.extractLsb'_eq_self

@[simp] theorem encodeColor_second_byte (mode : RoundMode) (order : ChannelOrder) (c : Color) :
    (encodeColor mode order c).extractLsb' 8 8 = quantize mode (c.channel order.second) := by
  unfold encodeColor
  rw [BitVec.extractLsb'_append_eq_of_le (by decide)]
  exact BitVec.extractLsb'_append_eq_right

@[simp] theorem encodeColor_third_byte (mode : RoundMode) (order : ChannelOrder) (c : Color) :
    (encodeColor mode order c).extractLsb' 0 8 = quantize mode (c.channel order.third) :=
  BitVec.extractLsb'_append_eq_right

/-- Settles O9: a byte of a word is a function of its own channel's intensity alone. -/
theorem channelIsolation : Obligations.ChannelIsolation := by
  intro mode order c c'
  refine ⟨encodeColor_first_byte .., encodeColor_second_byte .., encodeColor_third_byte ..,
    fun h => ?first, fun h => ?second, fun h => ?third⟩
  case first => rw [encodeColor_first_byte, encodeColor_first_byte, h]
  case second => rw [encodeColor_second_byte, encodeColor_second_byte, h]
  case third => rw [encodeColor_third_byte, encodeColor_third_byte, h]

/-! ### Quantizing a grid point (R124 item 2) -/

theorem gridIntensity_nonneg (k : Byte) : 0 ≤ gridIntensity k := by
  unfold gridIntensity; positivity

theorem gridIntensity_le_one (k : Byte) : gridIntensity k ≤ 1 := by
  have hk : (k.toNat : Rat) ≤ 255 := mod_cast Nat.le_of_lt_succ k.isLt
  unfold gridIntensity; linarith

theorem scaled_gridIntensity (k : Byte) : 255 * gridIntensity k = (k.toNat : Int) := by
  unfold gridIntensity; push_cast; ring

/-- An integer is narrowed to itself in either mode: `nearest` adds less than 1. -/
theorem roundScaled_intCast (mode : RoundMode) (n : Int) : roundScaled mode n = n := by
  cases mode with
  | floor => rw [roundScaled_floor, Int.floor_intCast]
  | nearest =>
    rw [roundScaled_nearest, Int.floor_intCast_add, Int.floor_eq_zero_iff.mpr (by norm_num),
      add_zero]

/-- `quantize` is exact on the grid in either mode: the scaled value is the integer `k`. -/
theorem quantize_gridIntensity (mode : RoundMode) (k : Byte) :
    quantize mode (gridIntensity k) = k := by
  rw [quantize, clamp01_of_mem (gridIntensity_nonneg k) (gridIntensity_le_one k),
    scaled_gridIntensity, roundScaled_intCast, BitVec.ofInt_natCast, BitVec.ofNat_toNat,
    BitVec.setWidth_eq]

/-! ### The words of black and white (R123) -/

theorem quantize_zero (mode : RoundMode) : quantize mode 0 = 0x00 := by
  simpa [gridIntensity] using quantize_gridIntensity mode 0x00

theorem quantize_one (mode : RoundMode) : quantize mode 1 = 0xFF := by
  simpa [gridIntensity] using quantize_gridIntensity mode 0xFF

theorem channel_of_equal (x : Rat) (ch : Channel) : (⟨x, x, x⟩ : Color).channel ch = x := by
  cases ch <;> rfl

/-- A Color with one intensity in all channels has the same word under every channel order. -/
theorem encodeColor_of_equal (mode : RoundMode) (order : ChannelOrder) (x : Rat) :
    encodeColor mode order ⟨x, x, x⟩ = quantize mode x ++ quantize mode x ++ quantize mode x := by
  simp only [encodeColor, channel_of_equal]

/-- Settles O10: the three bytes of black are `quantize 0`, those of white `quantize 1`. -/
theorem encodeFixedPoints : Obligations.EncodeFixedPoints := by
  intro mode order
  rw [encodeColor_of_equal, encodeColor_of_equal, quantize_zero, quantize_one]
  decide

end Sys2Proof.Machine
end

section
/-! Proofs about the Glyph Table: what `render_digit` answers (R187) and the default glyph of 7 (R186). -/

namespace Sys2Proof.Machine

theorem renderDigit_val (p : Params) (d : Fin 10) : renderDigit p d.val = .ok p.glyphRom[d] :=
  renderDigit_of_le (by omega)

/-- A font mask draws the cells whose bits it sets, in whatever Color. -/
theorem maskPattern_eq_cellsPattern {mask : BitVec 25} {cells : List Nat}
    (h : ∀ c : Fin 25, mask.getLsbD c = cells.contains c.val) (col : Color) :
    maskPattern col mask = cellsPattern col cells := by
  simp only [maskPattern, cellsPattern, h]

theorem buildDigitGlyphs_get (d : Fin 10) :
    buildDigitGlyphs[d] = maskPattern glyphColor glyphMasks[d] :=
  Vector.getElem_ofFn d.isLt

theorem default_glyph_seven :
    Params.default.glyphRom[(7 : Fin 10)] = cellsPattern glyphColor [1, 2, 3, 8, 13, 18, 23] :=
  (buildDigitGlyphs_get 7).trans (maskPattern_eq_cellsPattern (by decide) glyphColor)

/-- Settles O12: the lookup inside 0..9 and outside, and the cells that the mask of 7 lights. -/
theorem renderDigitAnswers : Obligations.RenderDigitAnswers := by
  intro p v
  refine ⟨?inside, fun hv => renderDigit_of_not_le (by omega), ?seven⟩
  case inside =>
    rintro d rfl
    exact renderDigit_val p d
  case seven =>
    rw [← default_glyph_seven]
    exact renderDigit_val Params.default 7

end Sys2Proof.Machine
end

section
/-! Proofs about the Animation Engine: a `PLAY` that has no frame to show answers at the next tick and
leaves the line and the display alone (R203, R208). -/

namespace Sys2Proof.Machine

/-! ### A ready core: the serializer is idle and the chain holds no bits -/

theorem CoreInv.txState_idle_of_ready {s : State} (hi : CoreInv s) (hp : s.phase = .ready) :
    s.ser.txState = .idle :=
  by_contra fun h => absurd (hi.push_iff.mpr h) (by simp [hi.seq_idle_of_ready hp])

theorem CoreInv.dout_of_ready {s : State} (hi : CoreInv s) (hp : s.phase = .ready) :
    s.ser.dout = false := by
  simp [← Bool.not_eq_true, hi.dout_iff, hi.txState_idle_of_ready hp]

/-- Without a `start` the serializer of a ready core stays as it is (R160). -/
theorem CoreInv.ser_tick_of_ready {s : State} (hi : CoreInv s) (hp : s.phase = .ready) :
    s.ser.tick s.par s.fb false = s.ser := by
  rw [tick_idle_wait (hi.txState_idle_of_ready hp), ← hi.dout_of_ready hp]

/-- The low run of a ready core is past `T_LATCH`, so the chain has applied what it received
(R36, R172). -/
theorem LineInv.bits_of_ready {s : State} (hl : LineInv s) (hi : CoreInv s) (hp : s.phase = .ready) :
    s.chain.bits = [] := by
  have hquiet := hl.reception
  simp only [State.receptionOk, hi.txState_idle_of_ready hp, State.quietOk, hp] at hquiet
  obtain ⟨hrun, -⟩ := hquiet
  exact hl.latched (by omega)

/-- A chain that holds no bits only counts a low tick: it has nothing to latch (R172). -/
theorem chain_tick_quiet {p : Params} {free : Nat} {c : Chain} (hrun : c.hiRun = 0)
    (hbits : c.bits = []) : c.tick p free false = { c with loRun := c.loRun + 1 } := by
  simp [Chain.tick, endPulse_of_low hrun, hbits]

/-- While the line stays low after a tick in which the core is ready, the display stays. -/
theorem LineInv.display_enter_of_ready {s c : State} (hl : LineInv s) (hi : CoreInv s)
    (hr : s.entersReset = false) (hp : s.phase = .ready) (hc : c.ser.dout = false) :
    (s.enter c).chain.display = s.chain.display := by
  obtain ⟨hrun, -⟩ := hl.low_run (hi.dout_of_ready hp)
  rw [State.enter_chain, State.chainAhead_of_run hr, hc,
    chain_tick_quiet hrun (hl.bits_of_ready hi hp)]

/-! ### The step of a ready core that accepts `PLAY` -/

/-- R30, R93, R221: the step that accepts `PLAY i` runs it. -/
theorem step_of_play {s t : State} {i : Byte} (hr : s.entersReset = false) (hp : s.phase = .ready)
    (hv : s.pins.cmdValid = true) (hc : s.pins.cmd = 1#1 ++ i)
    (h : execPlay i (clearResponse s) = .next t) : step s = .next (s.enter t) := by
  obtain ⟨-, -, hdecode⟩ := operandsOfCommandWords
  refine step_of_core hr ?_
  simp only [coreStep, hp, hv, hc, hdecode i, if_true]
  exact h

/-- The core of the tick after `s` when the command accepted in `s` completes at once (R203, R208). -/
def State.answered (code : BitVec 2) (s : State) : State :=
  (complete code (clearResponse s)).serStep false

theorem CoreInv.answered_ser {s : State} (hi : CoreInv s) (hp : s.phase = .ready)
    (code : BitVec 2) : (s.answered code).ser = s.ser :=
  hi.ser_tick_of_ready hp

theorem LineInv.answered_display {s : State} (hl : LineInv s) (hi : CoreInv s)
    (hr : s.entersReset = false) (hp : s.phase = .ready) (code : BitVec 2) :
    (s.enter (s.answered code)).chain.display = s.chain.display :=
  hl.display_enter_of_ready hi hr hp (by rw [hi.answered_ser hp, hi.dout_of_ready hp])

/-- With an index of the catalog `PLAY` raises no exception: it answers code 0 or begins to show. -/
theorem execPlay_rspCode_of_lt {i : Byte} {s : State} (hi : i.toNat < s.par.animRom.length)
    (hs : s.rspCode = 0) : ∃ t, execPlay i s = .next t ∧ t.rspCode = 0 := by
  rcases ha : s.par.animRom[i.toNat] with _ | ⟨f, fs⟩
  · exact ⟨_, execPlay_of_empty (List.getElem?_eq_some_iff.mpr ⟨hi, ha⟩), rfl⟩
  · exact ⟨_, execPlay_of_frames (List.getElem?_eq_some_iff.mpr ⟨hi, ha⟩), hs⟩

/-- Settles O24: the engine completes at once, and an idle serializer and a quiet chain stay. -/
theorem playOfEmptyAnimation : Obligations.PlayOfEmptyAnimation := by
  refine ⟨fun s i ha hidle => ?exec, fun s i hi hl hr hp hv hc ha => ?step⟩
  case exec =>
    change execPlay i s = _
    rw [execPlay_of_empty ha, State.serStep, complete_ser, tick_idle_wait hidle]
    rfl
  case step =>
    exact ⟨s.enter (s.answered 0), step_of_play hr hp hv hc (execPlay_of_empty ha),
      rfl, rfl, rfl, rfl, rfl, rfl, hi.answered_ser hp 0, rfl, rfl, hl.answered_display hi hr hp 0⟩

/-- Settles O25: outside the catalog the exception completes the command, inside there is none. -/
theorem playOfUnknownIndex : Obligations.PlayOfUnknownIndex := by
  refine fun s i hi hl hr hp hv hc => ⟨fun hge => ?unknown, fun hlt => ?known⟩
  case unknown =>
    have hnone : animation s.par i = none := List.getElem?_eq_none hge
    have hser := hi.answered_ser hp 2
    exact ⟨s.enter (s.answered 2), step_of_play hr hp hv hc (execPlay_of_none hnone),
      rfl, rfl, rfl, rfl, rfl, rfl, hser, (congrArg Serializer.dout hser).trans (hi.dout_of_ready hp),
      rfl, rfl, rfl, hl.answered_display hi hr hp 2⟩
  case known =>
    obtain ⟨t, ht, hcode⟩ := execPlay_rspCode_of_lt (s := clearResponse s) hlt rfl
    exact ⟨s.enter t, step_of_play hr hp hv hc ht, hcode⟩

end Sys2Proof.Machine
end

section
/-! Proofs about reset: a tick with `rst` = 1 is a tick in the reset state (R290). -/

namespace Sys2Proof.Machine

/-- R258, R290: `rst` at the next tick is enough, whatever the present tick holds. -/
theorem State.entersReset_of_nextPins {s : State} (h : s.nextPins.rst = true) :
    s.entersReset = true := by
  simp [State.entersReset, h]

/-- R28, R35: the `STATUS` of a tick in the reset state. -/
theorem enter_coreReset_status (s : State) : (s.enter s.coreReset).status = 0 := by
  rw [State.status_enter, coreReset_status]

/-- Settles O33: the step enters the tick with the core at its reset values. -/
theorem resetOverrides : Obligations.ResetOverrides := by
  intro s hrst
  have hstep : step s = .next (s.enter s.coreReset) :=
    step_of_reset (State.entersReset_of_nextPins hrst)
  have hstatus := enter_coreReset_status s
  have hready : (s.enter s.coreReset).cmdReady = false := rfl
  exact ⟨_, hstep, by simp [hstatus, hready, Serializer.reset]⟩

end Sys2Proof.Machine
end

section
/-! Proofs about encoding and decoding: they are each other's inverses (R92 to R98), and the assembler
agrees with them (R102, R103). -/

namespace Sys2Proof

/-! ### Patterns and their bytes (log 8) -/

theorem append_toNat {m n : Nat} (x : BitVec m) (y : BitVec n) :
    (x ++ y).toNat = 2 ^ n * x.toNat + y.toNat := by
  rw [BitVec.toNat_append, ← Nat.shiftLeft_add_eq_or_of_lt y.isLt, Nat.shiftLeft_eq, Nat.mul_comm]

theorem byteAt_toNat {n : Nat} (w : BitVec n) (k : Nat) :
    (byteAt w k).toNat = w.toNat / 2 ^ (8 * k) % 256 := by
  rw [byteAt, BitVec.extractLsb'_toNat, Nat.shiftRight_eq_div_pow]

/-- A byte without excess bits is 0 or 1: its bits 7:1 are clear. -/
theorem excess_eq_zero_iff (b : Byte) : b.extractLsb' 1 7 = 0 ↔ b.toNat < 2 := by
  rw [← BitVec.toNat_inj, BitVec.extractLsb'_toNat, Nat.shiftRight_eq_div_pow]
  have := b.isLt
  simp only [BitVec.ofNat_eq_ofNat, BitVec.toNat_ofNat]
  omega

theorem codeOfBytes_bytesOfCode (c : Code) : codeOfBytes (bytesOfCode c) = .ok c := by
  cases c with
  | command w =>
    have hlast : (byteAt w 1).extractLsb' 1 7 = 0 := by
      rw [excess_eq_zero_iff, byteAt_toNat]; omega
    have hword : (byteAt w 1 ++ byteAt w 0).extractLsb' 0 9 = w := by
      apply BitVec.eq_of_toNat_eq
      simp only [BitVec.extractLsb'_toNat, Nat.shiftRight_zero, append_toNat, byteAt_toNat]
      omega
    simp [bytesOfCode, codeOfBytes, hlast, hword]
  | colour w =>
    have hword : byteAt w 2 ++ byteAt w 1 ++ byteAt w 0 = w := by
      apply BitVec.eq_of_toNat_eq
      simp only [append_toNat, byteAt_toNat]
      omega
    simp [bytesOfCode, codeOfBytes, hword]
  | symbol w =>
    have hlast : (byteAt w 3).extractLsb' 1 7 = 0 := by
      rw [excess_eq_zero_iff, byteAt_toNat]; omega
    have hword : (byteAt w 3 ++ byteAt w 2 ++ byteAt w 1 ++ byteAt w 0).extractLsb' 0 25 = w := by
      apply BitVec.eq_of_toNat_eq
      simp only [BitVec.extractLsb'_toNat, Nat.shiftRight_zero, append_toNat, byteAt_toNat]
      omega
    simp [bytesOfCode, codeOfBytes, hlast, hword]

/-- Byte `k` of a pattern, from the pattern's value. -/
theorem byteAt_eq {n : Nat} {w : BitVec n} {k : Nat} {b : Byte}
    (h : w.toNat / 2 ^ (8 * k) % 256 = b.toNat) : byteAt w k = b :=
  BitVec.eq_of_toNat_eq ((byteAt_toNat w k).trans h)

theorem bytesOfCode_of_codeOfBytes {bytes : List Byte} {c : Code}
    (h : codeOfBytes bytes = .ok c) : bytesOfCode c = bytes := by
  unfold codeOfBytes at h
  split at h
  next b0 b1 =>
    split at h
    next hlast =>
      cases h
      rw [excess_eq_zero_iff] at hlast
      have hw : ((b1 ++ b0).extractLsb' 0 9).toNat = 256 * b1.toNat + b0.toNat := by
        simp only [BitVec.extractLsb'_toNat, Nat.shiftRight_zero, append_toNat]
        omega
      rw [bytesOfCode, byteAt_eq (b := b0) (by omega), byteAt_eq (b := b1) (by omega)]
    next => cases h
  next b0 b1 b2 =>
    cases h
    have hw : (b2 ++ b1 ++ b0).toNat = 65536 * b2.toNat + 256 * b1.toNat + b0.toNat := by
      simp only [append_toNat]
      omega
    rw [bytesOfCode, byteAt_eq (b := b0) (by omega), byteAt_eq (b := b1) (by omega),
      byteAt_eq (b := b2) (by omega)]
  next b0 b1 b2 b3 =>
    split at h
    next hlast =>
      cases h
      rw [excess_eq_zero_iff] at hlast
      have hw : ((b3 ++ b2 ++ b1 ++ b0).extractLsb' 0 25).toNat =
          16777216 * b3.toNat + 65536 * b2.toNat + 256 * b1.toNat + b0.toNat := by
        simp only [BitVec.extractLsb'_toNat, Nat.shiftRight_zero, append_toNat]
        omega
      rw [bytesOfCode, byteAt_eq (b := b0) (by omega), byteAt_eq (b := b1) (by omega),
        byteAt_eq (b := b2) (by omega), byteAt_eq (b := b3) (by omega)]
    next => cases h
  next => cases h

/-! ### Instructions and their patterns (R94, R95, R97, R98) -/

theorem showdigit_wellFormed_iff (d : BitVec 4) :
    (Instr.showdigit d).wellFormed = true ↔ d.toNat ≤ 9 := by
  simp [Instr.wellFormed, BitVec.le_def]

theorem clearchar_wellFormed_iff (ch : Byte) :
    (Instr.clearchar ch).wellFormed = true ↔ ¬(0x30 ≤ ch.toNat ∧ ch.toNat ≤ 0x39) := by
  rw [← isDigitCode_iff]; simp [Instr.wellFormed]

theorem showdigitWord_toNat (d : BitVec 4) : (0x030#9 + d.setWidth 9).toNat = 0x30 + d.toNat := by
  simp only [BitVec.toNat_add, BitVec.toNat_setWidth, BitVec.toNat_ofNat]
  omega

theorem clearcharWord_toNat (ch : Byte) : (ch.setWidth 9).toNat = ch.toNat :=
  BitVec.toNat_setWidth_of_le (by decide)

theorem playWord_toNat (i : Byte) : (0x100#9 + i.setWidth 9).toNat = 0x100 + i.toNat := by
  simp only [BitVec.toNat_add, BitVec.toNat_setWidth, BitVec.toNat_ofNat]
  omega

theorem payload_eq {w : CmdWord} {b : Byte} (h : w.toNat % 0x100 = b.toNat) : payload w = b :=
  BitVec.eq_of_toNat_eq ((payload_toNat w).trans h)

/-- The command words of well-formed instructions decode to them. -/
theorem decodeCommand_of_encodeCode {i : Instr} {w : CmdWord} (hi : i.wellFormed = true)
    (h : encodeCode i = .command w) : decodeCommand w = i := by
  cases i with
  | showdigit d =>
    cases h
    have hd := (showdigit_wellFormed_iff d).mp hi
    have hw := showdigitWord_toNat d
    have hcode : 0x30 ≤ (0x030#9 + d.setWidth 9).toNat ∧ (0x030#9 + d.setWidth 9).toNat ≤ 0x39 := by
      omega
    have hpay := payload_toNat (0x030#9 + d.setWidth 9)
    have hdigit := extractLsb'_digitCode_toNat (ch := payload (0x030#9 + d.setWidth 9)) (by omega)
    rw [decodeCommand_of_digitCode hcode]
    exact congrArg _ (BitVec.eq_of_toNat_eq (by omega))
  | clearchar ch =>
    cases h
    have hch := (clearchar_wellFormed_iff ch).mp hi
    have hw := clearcharWord_toNat ch
    rw [decodeCommand_of_other (by omega), payload_eq (b := ch) (by omega)]
  | play i =>
    cases h
    have hw := playWord_toNat i
    rw [decodeCommand_of_tag (by omega), payload_eq (b := i) (by omega)]
  | bit0 => cases h
  | bit1 => cases h
  | word g r b => cases h

@[simp] theorem decodeColour_append (g r b : Byte) : decodeColour (g ++ r ++ b) = .word g r b := by
  have hg : (g ++ r ++ b).extractLsb' 16 8 = g := by
    iterate 2 rw [BitVec.extractLsb'_append_eq_of_le (by decide)]
    exact BitVec.extractLsb'_eq_self
  have hr : (g ++ r ++ b).extractLsb' 8 8 = r := by
    rw [BitVec.extractLsb'_append_eq_of_le (by decide)]
    exact BitVec.extractLsb'_append_eq_right
  have hb : (g ++ r ++ b).extractLsb' 0 8 = b := BitVec.extractLsb'_append_eq_right
  rw [decodeColour, hg, hr, hb]

theorem decodeCode_encodeCode {i : Instr} (hi : i.wellFormed = true) :
    decodeCode (encodeCode i) = .ok i := by
  cases i with
  | showdigit d => exact congrArg Except.ok (decodeCommand_of_encodeCode hi rfl)
  | clearchar ch => exact congrArg Except.ok (decodeCommand_of_encodeCode hi rfl)
  | play i => exact congrArg Except.ok (decodeCommand_of_encodeCode hi rfl)
  | bit0 => rfl
  | bit1 => rfl
  | word g r b => exact congrArg Except.ok (decodeColour_append g r b)

/-- Settles O1: the layout in bytes and the pattern are each undone by their own decoder. -/
theorem encodeThenDecode : Obligations.EncodeThenDecode := by
  intro i hi
  rw [decode, encode, codeOfBytes_bytesOfCode]
  exact decodeCode_encodeCode hi

/-- Every command word is the pattern of the well-formed instruction it decodes to. -/
theorem encodeCode_decodeCommand (w : CmdWord) :
    (decodeCommand w).wellFormed = true ∧ encodeCode (decodeCommand w) = .command w := by
  have hpay := payload_toNat w
  by_cases htag : 0x100 ≤ w.toNat
  · rw [decodeCommand_of_tag htag]
    have hw := playWord_toNat (payload w)
    exact ⟨rfl, congrArg Code.command (BitVec.eq_of_toNat_eq (by omega))⟩
  by_cases hdigit : 0x30 ≤ w.toNat ∧ w.toNat ≤ 0x39
  · rw [decodeCommand_of_digitCode hdigit, showdigit_wellFormed_iff]
    have hd := extractLsb'_digitCode_toNat (ch := payload w) (by omega)
    have hw := showdigitWord_toNat ((payload w).extractLsb' 0 4)
    exact ⟨by omega, congrArg Code.command (BitVec.eq_of_toNat_eq (by omega))⟩
  · rw [decodeCommand_of_other (by omega), clearchar_wellFormed_iff]
    have hw := clearcharWord_toNat (payload w)
    exact ⟨by omega, congrArg Code.command (BitVec.eq_of_toNat_eq (by omega))⟩

/-- A colour word is the concatenation of its three bytes (R97). -/
theorem extractLsb'_append_bytes (w : Word) :
    w.extractLsb' 16 8 ++ w.extractLsb' 8 8 ++ w.extractLsb' 0 8 = w := by
  apply BitVec.eq_of_toNat_eq
  simp only [append_toNat, BitVec.extractLsb'_toNat, Nat.shiftRight_eq_div_pow]
  omega

theorem encodeCode_decodeColour (w : Word) : encodeCode (decodeColour w) = .colour w :=
  congrArg Code.colour (extractLsb'_append_bytes w)

theorem encodeCode_of_decodeCode {c : Code} {i : Instr} (h : decodeCode c = .ok i) :
    i.wellFormed = true ∧ encodeCode i = c := by
  cases c with
  | command w => cases h; exact encodeCode_decodeCommand w
  | colour w => cases h; exact ⟨rfl, encodeCode_decodeColour w⟩
  | symbol w =>
    rw [decodeCode, decodeSymbol] at h
    split_ifs at h with h0 h1
    · cases h; exact ⟨rfl, congrArg Code.symbol h0.symm⟩
    · cases h; exact ⟨rfl, congrArg Code.symbol h1.symm⟩

/-- Settles O2: the pattern read from the bytes lays out as them, and encodes what it decodes to. -/
theorem decodeThenEncode : Obligations.DecodeThenEncode := by
  intro bytes i h
  unfold decode at h
  split at h
  next c hc =>
    obtain ⟨hwf, hcode⟩ := encodeCode_of_decodeCode h
    exact ⟨hwf, by rw [encode, hcode, bytesOfCode_of_codeOfBytes hc]⟩
  next => cases h

/-- Settles O5: the decoder run on the six words. -/
theorem sampleWordsDecode : Obligations.SampleWordsDecode := by
  refine ⟨?_, ?_, ?_, ?_, ?_, ?_⟩ <;> decide

end Sys2Proof

namespace Sys2Proof.Machine

/-! ### The assembler (R102, R103) -/

theorem asmDigit_decodes {d : Nat} (h : d ≤ 9) :
    ∃ w, asmDigit d = some w ∧ decodeCommand w = .showdigit (BitVec.ofNat 4 d) := by
  refine ⟨_, if_pos h, decodeCommand_of_encodeCode ?_ (congrArg Code.command ?_)⟩
  · rw [showdigit_wellFormed_iff, BitVec.toNat_ofNat]; omega
  · apply BitVec.eq_of_toNat_eq
    rw [showdigitWord_toNat, BitVec.toNat_ofNat, BitVec.toNat_ofNat]; omega

theorem asmChar_decodes {v : Nat} (h : v ≤ 255) (hd : ¬(0x30 ≤ v ∧ v ≤ 0x39)) :
    ∃ w, asmChar v = some w ∧ decodeCommand w = .clearchar (BitVec.ofNat 8 v) := by
  refine ⟨_, if_pos h, decodeCommand_of_encodeCode ?_ (congrArg Code.command ?_)⟩
  · rw [clearchar_wellFormed_iff, BitVec.toNat_ofNat]; omega
  · apply BitVec.eq_of_toNat_eq
    rw [clearcharWord_toNat, BitVec.toNat_ofNat, BitVec.toNat_ofNat]; omega

/-- `CHAR` of a digit's code is the word of that digit's `SHOWDIGIT`. -/
theorem asmChar_eq_asmDigit {v : Nat} (h : 0x30 ≤ v ∧ v ≤ 0x39) :
    asmChar v = asmDigit (v - 0x30) := by
  rw [asmChar, asmDigit, if_pos (by omega), if_pos (by omega), Nat.add_sub_cancel' h.1]

theorem asmPlay_decodes {i : Nat} (h : i ≤ 255) :
    ∃ w, asmPlay i = some w ∧ decodeCommand w = .play (BitVec.ofNat 8 i) := by
  refine ⟨_, if_pos h, decodeCommand_of_encodeCode rfl (congrArg Code.command ?_)⟩
  apply BitVec.eq_of_toNat_eq
  rw [playWord_toNat, BitVec.toNat_ofNat, BitVec.toNat_ofNat]; omega

theorem asmClearchar_eq_none {v : Nat} (h : 255 < v ∨ (0x30 ≤ v ∧ v ≤ 0x39)) :
    asmClearchar v = none := by
  unfold asmClearchar asmChar
  split_ifs with hd hv
  · rfl
  · omega
  · rfl

/-- Settles O53: each line's word is the pattern of its command, which the decoder gives back. -/
theorem assemblerAgreesWithDecoder : Obligations.AssemblerAgreesWithDecoder := by
  refine ⟨fun d => ⟨fun hd => ?digitOut, fun hd => ?digitIn⟩,
    fun v => ⟨asmClearchar_eq_none, fun hv hd => ?charIn⟩,
    fun i => ⟨fun hi => if_neg (by omega), asmPlay_decodes⟩,
    fun v => ⟨fun hv => if_neg (by omega), fun hlo hhi => ?charDigit⟩, rfl⟩
  case digitOut =>
    have hnone : asmDigit d = none := if_neg (by omega)
    exact ⟨hnone, hnone⟩
  case digitIn =>
    obtain ⟨w, hw, hdec⟩ := asmDigit_decodes hd
    exact ⟨w, hw, hw, hdec⟩
  case charIn =>
    obtain ⟨w, hw, hdec⟩ := asmChar_decodes hv hd
    exact ⟨w, (if_neg hd).trans hw, hw, hdec⟩
  case charDigit =>
    obtain ⟨w, hw, hdec⟩ := asmDigit_decodes (d := v - 0x30) (by omega)
    exact ⟨w, (asmChar_eq_asmDigit ⟨hlo, hhi⟩).trans hw, hdec⟩

end Sys2Proof.Machine
end

section
/-! Proofs about the order and the preimages of `quantize` (R124), and about the words a Matrix is sent
as: the digits' (R183, R184) and those the board shows (R174, R175). -/

namespace Sys2Proof.Machine

/-! ### Rounding (R122, R129) -/

theorem roundScaled_mono (mode : RoundMode) {x y : Rat} (h : x ≤ y) :
    roundScaled mode x ≤ roundScaled mode y := by
  cases mode with
  | floor => exact Int.floor_le_floor h
  | nearest => exact Int.floor_le_floor (add_le_add_left h (1 / 2))

/-- Both modes commute with adding 1, so values 1 apart are rounded at least 1 apart. -/
theorem roundScaled_add_one_le (mode : RoundMode) {x y : Rat} (h : x + 1 ≤ y) :
    roundScaled mode x + 1 ≤ roundScaled mode y := by
  refine le_trans (le_of_eq ?_) (roundScaled_mono mode h)
  cases mode with
  | floor => exact (Int.floor_add_one x).symm
  | nearest =>
    rw [roundScaled_nearest, roundScaled_nearest, add_right_comm, Int.floor_add_one]

/-- Settles O6: rounding is monotone and keeps a distance of 1, the scaled form of 1/255. -/
theorem quantizeOrder : Obligations.QuantizeOrder := by
  refine fun mode x y => ⟨fun hxy => ?mono, fun h0 h1 hxy => ?apart⟩
  case mono =>
    have hclamp := clamp01_mono hxy
    have hround := roundScaled_mono mode (x := 255 * clamp01 x) (y := 255 * clamp01 y) (by linarith)
    rw [← quantize_toNat, ← quantize_toNat] at hround
    omega
  case apart =>
    have hround := roundScaled_add_one_le mode (x := 255 * clamp01 x) (y := 255 * clamp01 y) (by
      rw [clamp01_of_mem h0 (by linarith), clamp01_of_mem (by linarith) h1]; linarith)
    rw [← quantize_toNat, ← quantize_toNat] at hround
    omega

/-! ### Preimages (R124 item 4) -/

theorem quantize_eq_iff {mode : RoundMode} {x : Rat} {k : Nat} :
    (quantize mode x).toNat = k ↔ roundScaled mode (255 * clamp01 x) = k := by
  rw [← quantize_toNat, Nat.cast_inj]

theorem quantize_floor_eq_iff (x : Rat) (k : Nat) :
    (quantize .floor x).toNat = k ↔
      (k : Rat) / 255 ≤ clamp01 x ∧ clamp01 x < ((k : Rat) + 1) / 255 := by
  rw [quantize_eq_iff, roundScaled_floor, Int.floor_eq_iff, Int.cast_natCast]
  constructor <;> rintro ⟨hlo, hhi⟩ <;> constructor <;> linarith

theorem quantize_nearest_eq_iff (x : Rat) (k : Nat) :
    (quantize .nearest x).toNat = k ↔
      (2 * (k : Rat) - 1) / 510 ≤ clamp01 x ∧ clamp01 x < (2 * (k : Rat) + 1) / 510 := by
  rw [quantize_eq_iff, roundScaled_nearest, Int.floor_eq_iff, Int.cast_natCast]
  constructor <;> rintro ⟨hlo, hhi⟩ <;> constructor <;> linarith

theorem one_le_clamp01_iff (x : Rat) : 1 ≤ clamp01 x ↔ 1 ≤ x := by
  unfold clamp01
  split_ifs <;> constructor <;> intro h <;> linarith

/-- Below a bound inside (0, 1] the clamp makes no difference. -/
theorem clamp01_lt_iff {x b : Rat} (hb0 : 0 < b) (hb1 : b ≤ 1) : clamp01 x < b ↔ x < b := by
  unfold clamp01
  split_ifs <;> constructor <;> intro h <;> linarith

/-- Settles O8: the interval that is rounded to `k`, and the clamp's part in the two end bytes. -/
theorem quantizePreimages : Obligations.QuantizePreimages := by
  refine ⟨fun x k _ => quantize_floor_eq_iff x k, fun x => ?white, fun x => ?black,
    fun x k _ => quantize_nearest_eq_iff x k⟩
  case white =>
    have hle := clamp01_le_one x
    rw [quantize_floor_eq_iff, ← one_le_clamp01_iff]
    constructor
    · rintro ⟨hlo, -⟩; push_cast at hlo; linarith
    · intro h; push_cast; constructor <;> linarith
  case black =>
    have hge := clamp01_nonneg x
    rw [quantize_floor_eq_iff, ← clamp01_lt_iff (x := x) (by norm_num) (by norm_num)]
    constructor
    · rintro ⟨-, hhi⟩; push_cast at hhi; linarith
    · intro h; push_cast; constructor <;> linarith

/-! ### `encode` is onto (R124 item 2) -/

/-- The byte of `w` that `order` sends for a channel. -/
def byteOfChannel (order : ChannelOrder) (w : Word) (ch : Channel) : Byte :=
  if ch = order.first then w.extractLsb' 16 8
  else if ch = order.second then w.extractLsb' 8 8
  else w.extractLsb' 0 8

theorem colorOfWord_channel (order : ChannelOrder) (w : Word) (ch : Channel) :
    (colorOfWord order w).channel ch = gridIntensity (byteOfChannel order w ch) := by
  cases ch <;> rfl

/-- A Color of grid intensities has the word it was made from, the order being a permutation. -/
theorem encode_colorOfWord (p : Params) (w : Word) :
    p.encode (colorOfWord p.channelOrder w) = w := by
  obtain ⟨hfs, hft, hst⟩ := p.channels_distinct
  simp only [ParamData.encode, encodeColor, colorOfWord_channel, quantize_gridIntensity,
    byteOfChannel, if_true, hfs.symm, hft.symm, hst.symm, if_false]
  exact extractLsb'_append_bytes w

/-- Settles O7: a grid point quantizes to its byte, so the Color of a word's bytes has that word. -/
theorem quantizeExactOnGrid : Obligations.QuantizeExactOnGrid :=
  ⟨quantize_gridIntensity, fun p w => ⟨_, encode_colorOfWord p w⟩⟩

/-! ### The words of a Matrix, by chain position (R69, R70) -/

theorem encode_black (p : ParamData) : p.encode Color.black = 0 :=
  (encodeFixedPoints p.roundMode p.channelOrder).1

@[simp] theorem frameWord_zero (p : Params) (pos : Fin 25) : frameWord p Pattern.zero pos = 0 := by
  simp [frameWord, Pattern.zero, encode_black]

/-- Every cell is sent at some chain position (R70). -/
theorem exists_frameWord_eq (p : Params) (cell : Fin 25) :
    ∃ pos, ∀ fb : Pattern, frameWord p fb pos = p.encode fb[cell] := by
  obtain ⟨pos, hpos⟩ := p.wiring_surjective cell
  exact ⟨pos, fun fb => by rw [← hpos]; rfl⟩

/-- Settles O11: the cells in which the glyphs differ, or are lit, are sent at some position. -/
theorem digitsDifferOnTheWire : Obligations.DigitsDifferOnTheWire := by
  refine fun p => ⟨fun d e hde => ?differ, fun d => ?visible, frameWord_zero p⟩
  case differ =>
    obtain ⟨cell, hcell⟩ := p.glyphs_distinct hde
    obtain ⟨pos, hpos⟩ := exists_frameWord_eq p cell
    exact ⟨pos, by rw [hpos, hpos]; exact hcell⟩
  case visible =>
    obtain ⟨cell, hcell⟩ := p.glyph_visible d
    obtain ⟨pos, hpos⟩ := exists_frameWord_eq p cell
    exact ⟨pos, by rw [hpos]; exact hcell⟩

/-- Settles O13: a cell is shown by the LED at the position the wiring sends it from. -/
theorem imageOnBoard : Obligations.ImageOnBoard := by
  intro p fb c hshow cell
  obtain ⟨pos, hpos⟩ := p.wiring_surjective cell
  rw [← hpos, shownOn, wiringInv_wiring, Option.map_some, hshow]
  rfl

end Sys2Proof.Machine
end

section
/-! Proofs about the LED chain: pulses become bits (R171), and a latch applies complete words (R172). -/

namespace Sys2Proof.Machine

/-- Settles O51: the pulse is nominal, and its first low tick is inside the symbol. -/
theorem pulseBecomesBit : Obligations.PulseBecomesBit := by
  intro p free c b hhi hlo
  have hpulse := endPulse_of_nominal (p := p) (free := free) (b := b) hhi
  have hpos := p.lo_pos ((c.endPulse p free).bits.getLastD false)
  rw [chain_tick_symbol (by omega), hpulse, hlo]

/-! ### The word of 24 received bits -/

theorem wordOfBits_append_singleton (bits : List Bool) (b : Bool) :
    wordOfBits (bits ++ [b]) = wordOfBits bits <<< 1 ||| (BitVec.ofBool b).setWidth 24 :=
  List.foldl_concat ..

/-- Bit 0 is the bit received last. -/
theorem wordOfBits_getLsbD (bits : List Bool) {i : Nat} (hi : i < 24) :
    (wordOfBits bits).getLsbD i = bits.reverse.getD i false := by
  induction bits using List.reverseRecOn generalizing i with
  | nil => simp [wordOfBits]
  | append_singleton bits b ih =>
    rw [wordOfBits_append_singleton, List.reverse_append, BitVec.getLsbD_or,
      BitVec.getLsbD_shiftLeft, BitVec.getLsbD_setWidth]
    cases i with
    | zero => simp
    | succ i => simp [hi, ih (i := i) (by omega)]

/-- Bit 23 is the bit received first, of exactly 24 (R172). -/
theorem wordOfBits_getLsbD_of_length {bits : List Bool} (h : bits.length = 24) {j : Nat}
    (hj : j < 24) : (wordOfBits bits).getLsbD (23 - j) = bits.getD j false := by
  rw [wordOfBits_getLsbD bits (by omega), List.getD_eq_getElem?_getD,
    List.getElem?_reverse (by omega), List.getD_eq_getElem?_getD, h]
  congr 2
  omega

theorem latchedWord_complete {free : Nat} {bits : List Bool} {pos : Fin 25} {old : Word}
    (h : 24 * (pos.val + 1) ≤ bits.length) :
    latchedWord free bits pos old = wordOfBits ((bits.drop (24 * pos.val)).take 24) := if_pos h

theorem latchedWord_untouched {free : Nat} {bits : List Bool} {pos : Fin 25} {old : Word}
    (h : bits.length ≤ 24 * pos.val) : latchedWord free bits pos old = old := by
  rw [latchedWord, if_neg (by omega), if_neg (by omega)]

/-- Settles O52: the two cases of a latch that the spec fixes. -/
theorem latchAppliesCompleteWords : Obligations.LatchAppliesCompleteWords := by
  refine fun free c => ⟨rfl, fun p => ⟨fun hlen j hj => ?complete, fun hlen => ?untouched⟩⟩
  case complete =>
    have hword : ((c.bits.drop (24 * p.val)).take 24).length = 24 := by
      rw [List.length_take, List.length_drop]; omega
    rw [latch_display, latchedWord_complete hlen, wordOfBits_getLsbD_of_length hword hj,
      List.getD_eq_getElem?_getD, List.getElem?_take_of_lt hj, List.getElem?_drop,
      ← List.getD_eq_getElem?_getD]
  case untouched => rw [latch_display, latchedWord_untouched hlen]

end Sys2Proof.Machine
end

section
/-! Proofs about the instructions (R97, R98, R204, R221 to R223) and about the steps that run them
(R30, R160, R232). -/

namespace Sys2Proof.Machine

/-! ### The line instructions (R97, R98) -/

theorem beginSymbol_putBit (p : Params) (b : Bool) (r : Serializer) :
    (r.putBit b).beginSymbol p =
      { r with
        shreg := setBit r.shreg r.bitn b, txState := .high, cnt := p.hi b - 1, dout := true } := by
  rw [Serializer.beginSymbol, putBit_lineBit]
  rfl

theorem exec_bit (b : Bool) (s : State) :
    exec (if b then .bit1 else .bit0) s =
      .next { s with ser := (s.ser.putBit b).beginSymbol s.par } := by
  cases b <;> rfl

/-- Settles O18: the symbol begun is that of the bit just put. -/
theorem bitBegins : Obligations.BitBegins := fun s =>
  ⟨(exec_bit false s).trans (by rw [beginSymbol_putBit]; rfl),
    (exec_bit true s).trans (by rw [beginSymbol_putBit]; rfl)⟩

theorem append_getLsbD_twentyThree (g r b : Byte) : (g ++ r ++ b).getLsbD 23 = g.getLsbD 7 := by
  simp only [BitVec.getLsbD_append]
  simp

/-- Settles O19: bit 23 of the loaded word is bit 7 of its first byte. -/
theorem wordBegins : Obligations.WordBegins := by
  intro s g r b
  rw [← append_getLsbD_twentyThree g r b]
  rfl

/-! ### The commands (R204, R221 to R223) -/

theorem tick_start_of_idle {r : Serializer} (h : r.txState = .idle) (p : Params) (m : Pattern) :
    r.tick p m true = pushStart p m := by
  rw [tick_idle_start h]
  rfl

theorem startPush_of_idle {s : State} (h : s.ser.txState = .idle) (m : Pattern) :
    startPush m s = { s with fb := m, seq := .push, ser := pushStart s.par m } := by
  rw [startPush, State.serStep, tick_start_of_idle h]

/-- Settles O20: a digit in range has a glyph, whose push starts. -/
theorem showdigitPushesGlyph : Obligations.ShowdigitPushesGlyph := by
  intro s d hd hidle
  change execShowdigit d s = _
  rw [execShowdigit_of_le hd]
  exact congrArg Host.Outcome.next (startPush_of_idle (by exact hidle) _)

/-- Settles O21: an operand that is no digit completes the command at once. -/
theorem showdigitOutOfRange : Obligations.ShowdigitOutOfRange := by
  intro s d hd hidle
  change execShowdigit d s = _
  rw [execShowdigit_of_gt (by omega), State.serStep, complete_ser, tick_idle_wait hidle]
  rfl

/-- Settles O22: the clearing is a push of the all-zero Matrix. -/
theorem clearcharPushesBlack : Obligations.ClearcharPushesBlack := by
  intro s ch hidle
  exact congrArg Host.Outcome.next (startPush_of_idle (by exact hidle) Pattern.zero)

/-- Settles O23: the first frame of the animation is the one pushed. -/
theorem playPushesFirstFrame : Obligations.PlayPushesFirstFrame := by
  intro s i a hpos ha hidle
  cases a with
  | nil => cases hpos
  | cons frame rest =>
    change execPlay i s = _
    rw [execPlay_of_frames ha]
    exact congrArg Host.Outcome.next (startPush_of_idle (by exact hidle) frame)

/-- A `PLAY` without a frame to show completes at once, with code 2 or 0 (R203, R208). -/
theorem execPlay_of_no_frame {i : Byte} {s t : State}
    (hcount : animCount s.par i = none ∨ animCount s.par i = some 0)
    (h : execPlay i s = .next t) :
    ∃ code, (code = 0 ∨ code = 2) ∧ t = (complete code s).serStep false := by
  rcases ha : animation s.par i with _ | _ | ⟨f, fs⟩
  · rw [execPlay_of_none ha] at h
    exact ⟨2, .inr rfl, (Host.Outcome.next.inj h).symm⟩
  · rw [execPlay_of_empty ha] at h
    exact ⟨0, .inl rfl, (Host.Outcome.next.inj h).symm⟩
  · simp [animCount, ha] at hcount

/-- Settles O26: by the three things an instruction can do, and for each row by its own meaning. -/
theorem instructionFrames : Obligations.InstructionFrames := by
  refine fun i s t h => ⟨?shared, ?line, ?noFrame, ?response⟩
  case shared =>
    obtain ⟨m, c, co, rfl⟩ | ⟨code, rfl⟩ | ⟨r, rfl⟩ := exec_cases h <;> simp
  case line =>
    rintro (rfl | rfl | ⟨g, r, b, rfl⟩) <;> cases h <;> exact ⟨rfl, rfl⟩
  case noFrame =>
    rintro k rfl hcount
    obtain ⟨code, -, rfl⟩ := execPlay_of_no_frame hcount h
    exact ⟨rfl, rfl⟩
  case response =>
    intro hseq
    obtain ⟨m, c, co, rfl⟩ | ⟨code, rfl⟩ | ⟨r, rfl⟩ := exec_cases h
    · exact ⟨rfl, rfl, rfl⟩
    · cases hseq
    · exact ⟨rfl, rfl, rfl⟩

/-! ### The steps that run an instruction -/

theorem coreStep_of_init {s : State} (hp : s.phase = .init) :
    coreStep s = .next (initTick (clearResponse s)) := by
  simp [coreStep, hp]

theorem coreStep_of_wait {s : State} (hp : s.phase = .ready) (hv : s.pins.cmdValid = false) :
    coreStep s = .next ((clearResponse s).serStep false) := by
  simp [coreStep, hp, hv]

/-- R30, R221: a ready core runs the command presented to it. -/
theorem coreStep_of_command {s : State} (hp : s.phase = .ready) (hv : s.pins.cmdValid = true) :
    coreStep s = exec (decodeCommand s.pins.cmd) (clearResponse s) := by
  simp [coreStep, hp, hv]

theorem coreStep_of_busy {s : State} (hp : s.phase = .busy) :
    coreStep s = busyTick (clearResponse s) := by
  simp [coreStep, hp]

theorem coreStep_of_fatal {s : State} (hp : s.phase = .fatal) :
    coreStep s = .next ((clearResponse s).serStep false) := by
  simp [coreStep, hp]

/-- Settles O27: the command word decodes to the instruction it encodes. -/
theorem stepRunsCommand : Obligations.StepRunsCommand := by
  intro s i hr hp hv hwf hcode
  obtain ⟨t, ht⟩ := exec_next i (clearResponse s)
  refine ⟨t, ht, step_of_core hr ?_⟩
  rw [coreStep_of_command hp hv, decodeCommand_of_encodeCode hwf hcode, ht]

/-- The phases in which pushes and delays run (R232). -/
def State.pushPhase (s : State) : Prop := s.phase = .busy ∨ s.phase = .init ∧ s.handle = .held

/-- Until the last tick of a push the core only lets the serializer go on (R160, R232). -/
theorem coreStep_of_push {s : State} (hp : s.pushPhase) (hseq : s.seq = .push)
    (hlast : s.ser.txLast = false) : coreStep s = .next ((clearResponse s).serStep false) := by
  obtain hp | ⟨hp, hh⟩ := hp
  · simp [coreStep, busyTick, hp, hseq, hlast]
  · simp [coreStep, initTick, hp, hh, hseq, hlast]

theorem txLast_of_low {r : Serializer} (h : r.txState = .low) : r.txLast = false := by
  simp [Serializer.txLast, h]

/-- Settles O28: the bit to send is the one `shreg` holds at the lower number, so putting it there
changes nothing. -/
theorem stepRunsSymbol : Obligations.StepRunsSymbol := by
  intro s hb hr hseq hp hlow hcnt
  have hput := putBit_same (r := { s.ser with bitn := ⟨s.ser.bitn.val - 1, by omega⟩ }) rfl
  refine ⟨_, exec_bit _ _, step_of_core hr ?_⟩
  rw [coreStep_of_push hp hseq (txLast_of_low hlow), State.serStep, clearResponse_ser,
    tick_low_next_bit hlow hcnt hb]
  exact congrArg (fun r : Serializer =>
    Host.Outcome.next { clearResponse s with ser := r.beginSymbol s.par }) hput.symm

theorem exec_decodeColour (w : Word) (s : State) :
    exec (decodeColour w) s = .next { s with ser := s.ser.loadWord s.par w } := by
  change Host.Outcome.next { s with ser := s.ser.loadWord s.par (_ ++ _ ++ _) } = _
  rw [extractLsb'_append_bytes]

/-- Settles O29: the serializer loads the word of the next position, or of position 0. -/
theorem stepRunsWord : Obligations.StepRunsWord := by
  refine ⟨fun s hpos hr hseq hp hlow hcnt hbit => ?next, fun s m hidle => ?first⟩
  case next =>
    refine ⟨_, exec_decodeColour _ _, step_of_core hr ?_⟩
    rw [coreStep_of_push hp hseq (txLast_of_low hlow), State.serStep, clearResponse_ser,
      tick_low_next_word hlow hcnt (by rw [hbit]; rfl) hpos]
    rfl
  case first =>
    rw [exec_decodeColour, startPush, State.serStep, tick_idle_start hidle]

end Sys2Proof.Machine
end

section
/-! Proofs about what a step of the core keeps and answers: the parameters (R11), the response
registers (R29, R229), `coord` (R22, R225), and the pins it does not read (R30, R142). -/

namespace Sys2Proof.Machine

/-! ### The command a command word holds -/

/-- A command word holds no `SHOWDIGIT` of 10..15 (R92). -/
theorem toNat_lt_of_decodeCommand {w : CmdWord} {d : BitVec 4}
    (h : decodeCommand w = .showdigit d) : d.toNat < 10 := by
  have hwf := (encodeCode_decodeCommand w).1
  rw [h, showdigit_wellFormed_iff] at hwf
  omega

theorem isDigitCode_of_decodeCommand {w : CmdWord} {ch : Byte}
    (h : decodeCommand w = .clearchar ch) : isDigitCode ch = false := by
  have hwf := (encodeCode_decodeCommand w).1
  rw [h] at hwf
  simpa [Instr.wellFormed] using hwf

/-- A command word holds a command and no line instruction (R94). -/
theorem decodeCommand_cases (w : CmdWord) :
    (∃ d, decodeCommand w = .showdigit d) ∨ (∃ ch, decodeCommand w = .clearchar ch) ∨
      ∃ i, decodeCommand w = .play i := by
  unfold decodeCommand
  split_ifs
  · exact .inr (.inr ⟨_, rfl⟩)
  · exact .inl ⟨_, rfl⟩
  · exact .inr (.inl ⟨_, rfl⟩)

/-- Everything a command of the port can do: start the push of the first Matrix it shows, or complete
at once with code 0 or 2, which only a `PLAY` does (R203, R204, R208, R222, R223). -/
theorem exec_decodeCommand_cases {w : CmdWord} {s t : State}
    (h : exec (decodeCommand w) s = .next t) :
    ((∃ m c co, t = startPush m { accept c s with coord := co }) ∧ t.commandOk) ∨
      ∃ code, (code = 0 ∨ code = 2) ∧ t = (complete code s).serStep false := by
  obtain ⟨d, hd⟩ | ⟨ch, hch⟩ | ⟨i, hi⟩ := decodeCommand_cases w
  · have hlt := toNat_lt_of_decodeCommand hd
    rw [hd] at h
    obtain rfl := Host.Outcome.next.inj ((execShowdigit_of_le hlt s).symm.trans h)
    exact .inl ⟨⟨_, _, _, rfl⟩, rfl, rfl, dif_pos hlt⟩
  · have hdigit := isDigitCode_of_decodeCommand hch
    rw [hch] at h
    obtain rfl := Host.Outcome.next.inj h
    exact .inl ⟨⟨_, _, _, rfl⟩, rfl, rfl, hdigit, rfl⟩
  · rw [hi] at h
    change execPlay i s = .next t at h
    rcases ha : animation s.par i with _ | _ | ⟨f, fs⟩
    · rw [execPlay_of_none ha] at h
      exact .inr ⟨2, .inr rfl, (Host.Outcome.next.inj h).symm⟩
    · rw [execPlay_of_empty ha] at h
      exact .inr ⟨0, .inl rfl, (Host.Outcome.next.inj h).symm⟩
    · rw [execPlay_of_frames ha] at h
      obtain rfl := Host.Outcome.next.inj h
      exact .inl ⟨⟨_, _, _, rfl⟩, rfl, animFrame_eq_some.mpr ⟨_, ha, rfl⟩⟩

/-! ### The parameters (R11) -/

theorem initTick_par (s : State) : (initTick s).par = s.par := by
  obtain ⟨-, -, h⟩ | ⟨-, -, h⟩ | ⟨-, -, -, h⟩ | ⟨-, -, -, h⟩ | ⟨-, -, -, h⟩ | ⟨-, -, -, h⟩ :=
    initTick_cases s <;> rw [h] <;> rfl

theorem busyTick_par {s t : State} (h : busyTick s = .next t) : t.par = s.par := by
  obtain ⟨-, -, rfl⟩ | ⟨-, -, rfl⟩ | ⟨-, -, rfl⟩ | ⟨-, -, hd⟩ := busyTick_cases h
  · rfl
  · obtain ha | ha := afterPush_cases s <;> rw [ha] <;> rfl
  · rfl
  · obtain ⟨m, k, rfl⟩ | rfl := afterDelay_cases hd <;> rfl

theorem coreStep_par {s t : State} (h : coreStep s = .next t) : t.par = s.par := by
  obtain ⟨-, rfl⟩ | ⟨-, -, rfl⟩ | ⟨-, -, he⟩ | ⟨-, hb⟩ | ⟨-, rfl⟩ := coreStep_cases h
  · exact initTick_par _
  · rfl
  · obtain ⟨m, c, co, rfl⟩ | ⟨code, rfl⟩ | ⟨r, rfl⟩ := exec_cases he <;> rfl
  · exact busyTick_par (s := clearResponse s) hb
  · rfl

theorem step_par {s t : State} (h : step s = .next t) : t.par = s.par := by
  obtain ⟨-, rfl⟩ | ⟨-, c, hc, rfl⟩ := step_next_iff.mp h
  · rfl
  · exact (State.enter_par s c).trans (coreStep_par hc)

/-- Settles O48: no part of a step writes the parameters. -/
theorem parametersConstant : Obligations.ParametersConstant := fun _ _ => step_par

/-! ### The response registers (R29, R229, R251) -/

/-- From `s` to `t` there is no response, or a command completes with code 0 or 2. -/
def State.Responds (s t : State) : Prop :=
  (t.rspValid = false ∧ t.rspCode = 0 ∧ t.lastRsp = s.lastRsp) ∨
    ∃ code u, (code = 0 ∨ code = 2) ∧ t = (complete code u).serStep false

theorem initTick_responds (s : State) : s.Responds (initTick (clearResponse s)) := by
  obtain ⟨-, -, h⟩ | ⟨-, -, h⟩ | ⟨-, -, -, h⟩ | ⟨-, -, -, h⟩ | ⟨-, -, -, h⟩ | ⟨-, -, -, h⟩ :=
    initTick_cases (clearResponse s) <;> rw [h] <;> exact .inl ⟨rfl, rfl, rfl⟩

theorem busyTick_responds {s t : State} (h : busyTick (clearResponse s) = .next t) :
    s.Responds t := by
  obtain ⟨-, -, rfl⟩ | ⟨-, -, rfl⟩ | ⟨-, -, rfl⟩ | ⟨-, -, hd⟩ := busyTick_cases h
  · exact .inl ⟨rfl, rfl, rfl⟩
  · obtain ha | ha := afterPush_cases (clearResponse s) <;> rw [ha]
    · exact .inl ⟨rfl, rfl, rfl⟩
    · exact .inr ⟨_, _, .inl rfl, rfl⟩
  · exact .inl ⟨rfl, rfl, rfl⟩
  · obtain ⟨m, k, rfl⟩ | rfl := afterDelay_cases hd
    · exact .inl ⟨rfl, rfl, rfl⟩
    · exact .inr ⟨_, _, .inl rfl, rfl⟩

theorem coreStep_responds {s t : State} (h : coreStep s = .next t) : s.Responds t := by
  obtain ⟨-, rfl⟩ | ⟨-, -, rfl⟩ | ⟨-, -, he⟩ | ⟨-, hb⟩ | ⟨-, rfl⟩ := coreStep_cases h
  · exact initTick_responds s
  · exact .inl ⟨rfl, rfl, rfl⟩
  · obtain ⟨⟨m, c, co, rfl⟩, -⟩ | ⟨code, hcode, rfl⟩ := exec_decodeCommand_cases he
    · exact .inl ⟨rfl, rfl, rfl⟩
    · exact .inr ⟨code, _, hcode, rfl⟩
  · exact busyTick_responds hb
  · exact .inl ⟨rfl, rfl, rfl⟩

/-- Settles O49: a response comes from completing a command, which mirrors its code. -/
theorem responsesAndLastRsp : Obligations.ResponsesAndLastRsp := by
  intro s t hr h
  obtain ⟨hr', -⟩ | ⟨-, c, hc, rfl⟩ := step_next_iff.mp h
  · simp [hr] at hr'
  obtain ⟨hvalid, hcode, hlast⟩ | ⟨code, u, hcode, rfl⟩ := coreStep_responds hc
  · exact ⟨fun hv => absurd (hvalid.symm.trans hv) Bool.false_ne_true, fun _ => ⟨hcode, hlast⟩⟩
  · exact ⟨fun _ => ⟨rfl, rfl, hcode⟩, fun hv => by cases hv⟩

/-- Settles O30: a presented command starts a push, being busy, or completes, with a response. -/
theorem acceptedExactlyWhenPresented : Obligations.AcceptedExactlyWhenPresented := by
  intro s t hr hp h
  obtain ⟨hr', -⟩ | ⟨-, c, hc, rfl⟩ := step_next_iff.mp h
  · simp [hr] at hr'
  cases hv : s.pins.cmdValid with
  | true =>
    rw [coreStep_of_command hp hv] at hc
    obtain ⟨⟨m, cmd, co, rfl⟩, -⟩ | ⟨code, -, rfl⟩ := exec_decodeCommand_cases hc
    · exact ⟨fun _ => .inl rfl, fun _ => rfl⟩
    · exact ⟨fun _ => .inr rfl, fun _ => rfl⟩
  | false =>
    simp only [coreStep, hp, hv, Bool.false_eq_true, if_false, Host.Outcome.next.injEq] at hc
    subst hc
    simp [hp]

/-! ### `coord` is written by an accepted command only (R22, R225) -/

/-- What a command leaves in `coord`: the state it names, or what was there if it shows nothing. -/
def coordAfter (p : Params) (w : CmdWord) (co : Coord) : Coord :=
  match decodeCommand w with
  | .showdigit d => .showDigit d
  | .clearchar _ => .idle
  | .play i =>
    match p.animRom[i.toNat]? with
    | some (_ :: _) => .showAnim i
    | _ => co
  | _ => co

theorem exec_coord {w : CmdWord} {s t : State} (h : exec (decodeCommand w) s = .next t) :
    t.coord = coordAfter s.par w s.coord := by
  unfold coordAfter
  obtain ⟨d, hd⟩ | ⟨ch, hch⟩ | ⟨i, hi⟩ := decodeCommand_cases w
  · rw [hd] at h ⊢
    obtain rfl := Host.Outcome.next.inj
      ((execShowdigit_of_le (toNat_lt_of_decodeCommand hd) s).symm.trans h)
    rfl
  · rw [hch] at h ⊢
    obtain rfl := Host.Outcome.next.inj h
    rfl
  · rw [hi] at h ⊢
    change execPlay i s = .next t at h
    rcases ha : animation s.par i with _ | _ | ⟨f, fs⟩
    · rw [execPlay_of_none ha] at h
      obtain rfl := Host.Outcome.next.inj h
      rw [animation] at ha; simp [ha]
    · rw [execPlay_of_empty ha] at h
      obtain rfl := Host.Outcome.next.inj h
      rw [animation] at ha; simp [ha]
    · rw [execPlay_of_frames ha] at h
      obtain rfl := Host.Outcome.next.inj h
      rw [animation] at ha; simp [ha]

theorem initTick_coord (s : State) : (initTick s).coord = s.coord := by
  obtain ⟨-, -, h⟩ | ⟨-, -, h⟩ | ⟨-, -, -, h⟩ | ⟨-, -, -, h⟩ | ⟨-, -, -, h⟩ | ⟨-, -, -, h⟩ :=
    initTick_cases s <;> rw [h] <;> rfl

theorem busyTick_coord {s t : State} (h : busyTick s = .next t) : t.coord = s.coord := by
  obtain ⟨-, -, rfl⟩ | ⟨-, -, rfl⟩ | ⟨-, -, rfl⟩ | ⟨-, -, hd⟩ := busyTick_cases h
  · rfl
  · obtain ha | ha := afterPush_cases s <;> rw [ha] <;> rfl
  · rfl
  · obtain ⟨m, k, rfl⟩ | rfl := afterDelay_cases hd <;> rfl

theorem coreStep_coord {s t : State} (h : coreStep s = .next t) :
    t.coord = if s.accepting then coordAfter s.par s.pins.cmd s.coord else s.coord := by
  obtain ⟨hp, rfl⟩ | ⟨-, hv, rfl⟩ | ⟨hp, hv, he⟩ | ⟨hp, hb⟩ | ⟨hp, rfl⟩ := coreStep_cases h
  · simp [State.accepting, State.cmdReady, hp, initTick_coord]
  · simp [State.accepting, hv]
  · simp [State.accepting, State.cmdReady, hp, hv, exec_coord he]
  · simp [State.accepting, State.cmdReady, hp, busyTick_coord hb]
  · simp [State.accepting, State.cmdReady, hp]

/-- Settles O47: reset, an accepted command, or neither. -/
theorem coordTransition : Obligations.CoordTransition := by
  intro s t h
  obtain ⟨hr, rfl⟩ | ⟨hr, c, hc, rfl⟩ := step_next_iff.mp h
  · simp [hr]
  · rw [hr, State.enter_coord, coreStep_coord hc]
    rfl

/-! ### Pins a step does not read (R30, R142, R314) -/

/-- The state with other levels on the input pins. -/
def State.withPins (q : Pins) (s : State) : State := { s with pins := q }

/-- An outcome with its next state changed by `f`. -/
def mapNext (f : State → State) :
    Host.Outcome State Fault Refusal → Host.Outcome State Fault Refusal
  | .next s => .next (f s)
  | .fault r => .fault r
  | .refused r => .refused r

variable {q : Pins} {s : State}

/-- No instruction reads a pin. -/
theorem exec_withPins (i : Instr) :
    exec i (s.withPins q) = mapNext (State.withPins q) (exec i s) := by
  cases i with
  | showdigit d =>
    change execShowdigit d _ = mapNext _ (execShowdigit d s)
    by_cases hd : d.toNat < 10
    · rw [execShowdigit_of_le hd, execShowdigit_of_le hd]; rfl
    · rw [execShowdigit_of_gt hd, execShowdigit_of_gt hd]; rfl
  | clearchar ch => rfl
  | play i =>
    change execPlay i _ = mapNext _ (execPlay i s)
    rcases ha : animation s.par i with _ | _ | ⟨f, fs⟩
    · rw [execPlay_of_none ha, execPlay_of_none (by exact ha)]; rfl
    · rw [execPlay_of_empty ha, execPlay_of_empty (by exact ha)]; rfl
    · rw [execPlay_of_frames ha, execPlay_of_frames (by exact ha)]; rfl
  | bit0 => rfl
  | bit1 => rfl
  | word g r b => rfl

/-- Start-up reads `hw_avail` only to take the handle (R142). -/
theorem initTick_withPins (hw : s.handle = .none → q.hwAvail = s.pins.hwAvail) :
    initTick (s.withPins q) = (initTick s).withPins q := by
  cases hh : s.handle with
  | none =>
    have hq := hw hh
    cases hv : s.pins.hwAvail <;> rw [hv] at hq <;>
      simp [initTick, acquireLine, State.withPins, State.serStep, hh, hv, hq]
  | held =>
    simp only [initTick, State.withPins, hh]
    split_ifs <;> simp [State.serStep, clear, startPush, hh]

theorem afterDelay_withPins :
    afterDelay (s.withPins q) = mapNext (State.withPins q) (afterDelay s) := by
  unfold afterDelay
  simp only [State.withPins]
  split
  · split
    · split_ifs with hk
      · exact dif_pos hk
      · exact dif_neg hk
    · rfl
  · rfl

theorem afterPush_withPins : afterPush (s.withPins q) = (afterPush s).withPins q := by
  unfold afterPush
  simp only [State.withPins]
  split <;> rfl

theorem busyTick_of_push (hs : s.seq = .push) :
    busyTick s = .next (State.serStep false (if s.ser.txLast then afterPush s else s)) := by
  simp [busyTick, hs]

theorem busyTick_of_delay (hs : s.seq = .delay) :
    busyTick s =
      if 0 < s.delayCnt then .next (State.serStep false { s with delayCnt := s.delayCnt - 1 })
      else afterDelay s := by
  simp [busyTick, hs]

theorem busyTick_of_idle (hs : s.seq = .idle) : busyTick s = .fault .sequencerStuck := by
  simp [busyTick, hs]

theorem busyTick_withPins :
    busyTick (s.withPins q) = mapNext (State.withPins q) (busyTick s) := by
  cases hs : s.seq with
  | idle => rw [busyTick_of_idle hs, busyTick_of_idle (by exact hs)]; rfl
  | push =>
    rw [busyTick_of_push hs, busyTick_of_push (by exact hs), afterPush_withPins]
    change Host.Outcome.next (State.serStep false (if s.ser.txLast then _ else _)) = _
    split_ifs <;> rfl
  | delay =>
    rw [busyTick_of_delay hs, busyTick_of_delay (by exact hs), afterDelay_withPins]
    change (if 0 < s.delayCnt then _ else _) = _
    split_ifs <;> rfl

/-- The core's step reads the command port of a ready core and `hw_avail` of one without its handle,
and passes the pins on as they are. -/
theorem coreStep_withPins
    (hcmd : s.phase = .ready → q.cmdValid = s.pins.cmdValid ∧ q.cmd = s.pins.cmd)
    (hw : s.phase = .init → s.handle = .none → q.hwAvail = s.pins.hwAvail) :
    coreStep (s.withPins q) = mapNext (State.withPins q) (coreStep s) := by
  cases hp : s.phase with
  | init =>
    rw [coreStep_of_init hp, coreStep_of_init (by exact hp)]
    exact congrArg Host.Outcome.next (initTick_withPins (s := clearResponse s) (hw hp))
  | ready =>
    obtain ⟨hvalid, hcode⟩ := hcmd hp
    cases hv : s.pins.cmdValid with
    | true =>
      rw [coreStep_of_command hp hv, coreStep_of_command (by exact hp) (hvalid.trans hv), ← hcode]
      exact exec_withPins (s := clearResponse s) _
    | false =>
      rw [coreStep_of_wait hp hv, coreStep_of_wait (by exact hp) (hvalid.trans hv)]
      rfl
  | busy =>
    rw [coreStep_of_busy hp, coreStep_of_busy (by exact hp)]
    exact busyTick_withPins (s := clearResponse s)
  | fatal =>
    rw [coreStep_of_fatal hp, coreStep_of_fatal (by exact hp)]
    rfl

theorem entersReset_withPins (hnext : (s.withPins q).nextPins = s.nextPins)
    (hrst : q.rst = s.pins.rst) : (s.withPins q).entersReset = s.entersReset := by
  rw [State.entersReset, hnext]
  exact congrArg (· || s.nextPins.rst) hrst

/-- The tick being entered has the host's pins and none of the present ones. -/
theorem enter_withPins (hnext : (s.withPins q).nextPins = s.nextPins) (hrst : q.rst = s.pins.rst)
    (c : State) : (s.withPins q).enter (c.withPins q) = s.enter c := by
  have hreset := entersReset_withPins hnext hrst
  simp only [State.enter, State.nextTick, State.chainAhead, hnext, hreset]
  rfl

theorem step_withPins (hnext : (s.withPins q).nextPins = s.nextPins) (hrst : q.rst = s.pins.rst)
    (hcmd : s.phase = .ready → q.cmdValid = s.pins.cmdValid ∧ q.cmd = s.pins.cmd)
    (hw : s.phase = .init → s.handle = .none → q.hwAvail = s.pins.hwAvail) :
    step (s.withPins q) = step s := by
  have hreset := entersReset_withPins hnext hrst
  unfold step
  rw [hreset, coreStep_withPins hcmd hw]
  split_ifs
  · exact congrArg Host.Outcome.next (enter_withPins hnext hrst s.coreReset)
  · cases coreStep s with
    | next c => exact congrArg Host.Outcome.next (enter_withPins hnext hrst c)
    | fault r => rfl
    | refused r => rfl

/-- Settles O31: only a ready core reads the port. -/
theorem portIgnoredWhenNotReady : Obligations.PortIgnoredWhenNotReady := by
  intro s v w hp
  refine step_withPins ?_ rfl (fun h => absurd h hp) fun _ _ => rfl
  unfold State.nextPins State.withPins
  rfl

/-- Settles O32: only start-up without the handle reads `hw_avail`. -/
theorem hwAvailSampledOnce : Obligations.HwAvailSampledOnce := by
  intro s v hplan hp
  refine step_withPins ?_ rfl (fun _ => ⟨rfl, rfl⟩) fun hinit hnone => ?_
  · cases hin : s.incoming with
    | nil => exact absurd hin hplan
    | cons p rest => simp [State.nextPins, State.withPins, hin]
  · obtain hp | hh := hp
    · exact absurd hinit hp
    · rw [hnone] at hh; cases hh

/-- Settles O34: the step out of a reset tick enters tick 0 in the reset state. -/
theorem tickZeroIsReset : Obligations.TickZeroIsReset := by
  intro s hrst hnext
  have hr : s.entersReset = true := by simp [State.entersReset, hrst]
  refine ⟨_, step_of_reset hr, ?_, rfl, enter_coreReset_status s, hnext⟩
  simp [State.nextTick, hr]

end Sys2Proof.Machine
end

section
/-! Proofs about the control invariant: it holds at reset, every step keeps it, and no state that has
it is stuck (R22 to R27, R36, R37, R321). -/

namespace Sys2Proof.Machine

/-! ### The serializer's part -/

/-- The serializer is idle after a tick without `start` exactly when it was, or at `tx_last` (R160). -/
theorem tick_wait_busy_iff (p : Params) (fb : Pattern) (r : Serializer) :
    (r.tick p fb false).txState ≠ .idle ↔ r.txState ≠ .idle ∧ r.txLast = false := by
  cases hx : r.txState with
  | idle => simp [tick_idle_wait hx, hx]
  | high =>
    obtain hc | hc := Nat.eq_zero_or_pos r.cnt
    · simp [tick_high_end hx hc, Serializer.txLast, hx]
    · simp [tick_high_count hx hc, Serializer.txLast, hx]
  | low =>
    have hlast := txLast_of_low hx
    obtain hc | hc := Nat.eq_zero_or_pos r.cnt
    · obtain hb | hb := Nat.eq_zero_or_pos r.bitn.val
      · obtain hp | hp := Nat.lt_or_eq_of_le (Nat.le_of_lt_succ r.pos.isLt)
        · simp [tick_low_next_word hx hc hb hp, Serializer.loadWord, Serializer.beginSymbol, hlast]
        · simp [tick_low_last hx hc hb hp, hlast]
      · simp [tick_low_next_bit hx hc hb, Serializer.beginSymbol, hlast]
    · simp [tick_low_count hx hc, hx, hlast]
  | latch =>
    obtain hc | hc := Nat.eq_zero_or_pos r.cnt
    · simp [tick_latch_end hx hc, Serializer.txLast, hx, hc]
    · simp [tick_latch_count hx hc, Serializer.txLast, hx, hc.ne']

theorem serializerOk_of_idle {s : State} (h : s.ser.txState = .idle) :
    s.serializerOk ↔ s.ser.pos = 0 ∧ s.ser.bitn = 23 ∧ s.ser.cnt = 0 := by
  simp [State.serializerOk, h]

theorem serializerOk_of_high {s : State} (h : s.ser.txState = .high) :
    s.serializerOk ↔
      s.ser.cnt < s.par.hi s.lineBit ∧ s.ser.shreg = frameWord s.par s.fb s.ser.pos := by
  simp [State.serializerOk, h]

theorem serializerOk_of_low {s : State} (h : s.ser.txState = .low) :
    s.serializerOk ↔
      s.ser.cnt < s.par.lo s.lineBit ∧ s.ser.shreg = frameWord s.par s.fb s.ser.pos := by
  simp [State.serializerOk, h]

theorem serializerOk_of_latch {s : State} (h : s.ser.txState = .latch) :
    s.serializerOk ↔ s.ser.pos = 0 ∧ s.ser.bitn = 23 ∧ s.ser.cnt < s.par.tLatch := by
  simp [State.serializerOk, h]

/-- A symbol begins with all of its high ticks to go, so inside the range of its part. -/
theorem serializerOk_beginSymbol {s : State} {r : Serializer} (hser : s.ser = r.beginSymbol s.par)
    (hword : r.shreg = frameWord s.par s.fb r.pos) : s.serializerOk := by
  have hpos := s.par.hi_pos (r.shreg.getLsbD r.bitn)
  rw [serializerOk_of_high (by rw [hser]; rfl), State.lineBit, hser]
  exact ⟨Nat.sub_one_lt hpos.ne', hword⟩

/-- A tick without `start` keeps the serializer's registers in their ranges (R25, R37, R38). -/
theorem serializerOk_serStep {s : State} (h : s.serializerOk) : (s.serStep false).serializerOk := by
  cases hx : s.ser.txState with
  | idle =>
    rw [serializerOk_of_idle hx] at h
    have hser : (s.serStep false).ser = { s.ser with dout := false } := tick_idle_wait hx
    rw [serializerOk_of_idle (by rw [hser]; exact hx), hser]
    exact h
  | high =>
    rw [serializerOk_of_high hx] at h
    obtain ⟨hcnt, hword⟩ := h
    obtain hc | hc := Nat.eq_zero_or_pos s.ser.cnt
    · have hser := tick_high_end (p := s.par) (fb := s.fb) (start := false) hx hc
      rw [← State.serStep_ser] at hser
      have hlo := s.par.lo_pos s.lineBit
      rw [serializerOk_of_low (by rw [hser]), State.lineBit, hser]
      exact ⟨Nat.sub_one_lt hlo.ne', hword⟩
    · have hser := tick_high_count (p := s.par) (fb := s.fb) (start := false) hx hc
      rw [← State.serStep_ser] at hser
      rw [serializerOk_of_high (by rw [hser]; exact hx), State.lineBit, hser]
      exact ⟨lt_of_le_of_lt (Nat.sub_le _ _) hcnt, hword⟩
  | low =>
    rw [serializerOk_of_low hx] at h
    obtain ⟨hcnt, hword⟩ := h
    obtain hc | hc := Nat.eq_zero_or_pos s.ser.cnt
    · obtain hb | hb := Nat.eq_zero_or_pos s.ser.bitn.val
      · obtain hp | hp := Nat.lt_or_eq_of_le (Nat.le_of_lt_succ s.ser.pos.isLt)
        · exact serializerOk_beginSymbol (s := s.serStep false) (tick_low_next_word hx hc hb hp) rfl
        · have hser := tick_low_last (p := s.par) (fb := s.fb) (start := false) hx hc hb hp
          rw [← State.serStep_ser] at hser
          have hlatch := s.par.two_le_tLatch
          rw [serializerOk_of_latch (by rw [hser]), hser]
          exact ⟨rfl, rfl, show s.par.tLatch - 1 < s.par.tLatch by omega⟩
      · exact serializerOk_beginSymbol (s := s.serStep false) (tick_low_next_bit hx hc hb) hword
    · have hser := tick_low_count (p := s.par) (fb := s.fb) (start := false) hx hc
      rw [← State.serStep_ser] at hser
      rw [serializerOk_of_low (by rw [hser]; exact hx), State.lineBit, hser]
      exact ⟨lt_of_le_of_lt (Nat.sub_le _ _) hcnt, hword⟩
  | latch =>
    rw [serializerOk_of_latch hx] at h
    obtain ⟨hpos, hbitn, hcnt⟩ := h
    obtain hc | hc := Nat.eq_zero_or_pos s.ser.cnt
    · have hser := tick_latch_end (p := s.par) (fb := s.fb) (start := false) hx hc
      rw [← State.serStep_ser] at hser
      rw [serializerOk_of_idle (by rw [hser]), hser]
      exact ⟨hpos, hbitn, hc⟩
    · have hser := tick_latch_count (p := s.par) (fb := s.fb) (start := false) hx hc
      rw [← State.serStep_ser] at hser
      rw [serializerOk_of_latch (by rw [hser]; exact hx), hser]
      exact ⟨hpos, hbitn, lt_of_le_of_lt (Nat.sub_le _ _) hcnt⟩

/-! ### The invariant from its parts -/

theorem dout_iff_of_tick (p : Params) (fb : Pattern) (start : Bool) (r : Serializer) :
    (r.tick p fb start).dout = true ↔ (r.tick p fb start).txState = .high := by
  rw [tick_dout, beq_iff_eq]

/-- A tick without `start`: the sequencer is in `SQ_PUSH` after it if a push goes on. -/
theorem CoreInv.of_serStep {u : State} (hser : u.serializerOk)
    (hseq : u.seq = .push ↔ u.ser.txState ≠ .idle ∧ u.ser.txLast = false) (hphase : u.phaseOk)
    (hcmd : u.commandOk) (hresp : u.responseOk) (hdelay : u.delayCnt ≤ u.par.tFrame) :
    CoreInv (u.serStep false) where
  dout_iff := dout_iff_of_tick ..
  push_iff := hseq.trans (tick_wait_busy_iff u.par u.fb u.ser).symm
  serializer := serializerOk_serStep hser
  phases := hphase
  commands := hcmd
  response := hresp
  delay_le := hdelay

/-- The start of a push, out of an idle serializer. -/
theorem CoreInv.of_startPush {m : Pattern} {u : State} (hidle : u.ser.txState = .idle)
    (hphase : (startPush m u).phaseOk) (hcmd : (startPush m u).commandOk) (hresp : u.responseOk)
    (hdelay : u.delayCnt ≤ u.par.tFrame) : CoreInv (startPush m u) where
  dout_iff := dout_iff_of_tick ..
  push_iff := by simp [tick_start_of_idle hidle, pushStart]
  serializer := serializerOk_beginSymbol (tick_idle_start hidle) rfl
  phases := hphase
  commands := hcmd
  response := hresp
  delay_le := hdelay

/-- The invariant speaks of the core alone. -/
theorem CoreInv.enter {c : State} (hi : CoreInv c) (s : State) : CoreInv (s.enter c) :=
  ⟨hi.dout_iff, hi.push_iff, hi.serializer, hi.phases, hi.commands, hi.response, hi.delay_le⟩

theorem phaseOk_of_init {s : State} (h : s.phase = .init) :
    s.phaseOk ↔
      s.cur = none ∧ s.coord = .idle ∧ s.lastRsp = 0 ∧ (s.handle = .held ↔ s.seq ≠ .idle) := by
  simp [State.phaseOk, h]

theorem phaseOk_of_ready {s : State} (h : s.phase = .ready) :
    s.phaseOk ↔ s.cur = none ∧ s.handle = .held ∧ s.seq = .idle := by
  simp [State.phaseOk, h]

theorem phaseOk_of_busy {s : State} (h : s.phase = .busy) :
    s.phaseOk ↔ s.handle = .held ∧ s.seq ≠ .idle ∧ s.cur ≠ none ∧
      (s.seq = .delay → ∃ i, s.cur = some (.play i)) := by
  simp [State.phaseOk, h]

theorem phaseOk_of_fatal {s : State} (h : s.phase = .fatal) :
    s.phaseOk ↔
      s.cur = none ∧ s.coord = .idle ∧ s.lastRsp = 0 ∧ s.handle = .none ∧ s.seq = .idle := by
  simp [State.phaseOk, h]

theorem commandOk_of_none {s : State} (h : s.cur = none) :
    s.commandOk ↔ s.frameIdx = 0 ∧ coordImage s.par s.coord = some s.fb := by
  simp [State.commandOk, h]

theorem commandOk_of_play {s : State} {i : Byte} (h : s.cur = some (.play i)) :
    s.commandOk ↔ s.coord = .showAnim i ∧ animFrame s.par i s.frameIdx = some s.fb := by
  simp [State.commandOk, h]

/-- While a command other than `PLAY` runs, `coord` names the Matrix in `FB` already (R22). -/
theorem coordImage_of_commandOk {s : State} (h : s.commandOk)
    (hcur : ∀ i, s.cur ≠ some (.play i)) : coordImage s.par s.coord = some s.fb := by
  unfold State.commandOk at h
  cases hc : s.cur with
  | none =>
    simp only [hc] at h
    exact h.2
  | some c =>
    cases c with
    | showdigit d =>
      simp only [hc] at h
      exact h.2.2
    | clearchar ch =>
      simp only [hc] at h
      exact h.2.2.2
    | play i => exact absurd hc (hcur i)

theorem responseOk_of_silent {s : State} (hv : s.rspValid = false) (hc : s.rspCode = 0)
    (hl : s.lastRsp = 0 ∨ s.lastRsp = 2) : s.responseOk :=
  ⟨fun h => absurd (hv.symm.trans h) Bool.false_ne_true, fun _ => hc, hl⟩

theorem CoreInv.lastRsp_code {s : State} (hi : CoreInv s) : s.lastRsp = 0 ∨ s.lastRsp = 2 := by
  obtain ⟨-, -, hlast⟩ := hi.response
  exact hlast

/-- The response registers of a step that gives no response (R232). -/
theorem CoreInv.silent {s : State} (hi : CoreInv s) : (clearResponse s).responseOk :=
  responseOk_of_silent rfl rfl hi.lastRsp_code

theorem complete_responseOk {code : BitVec 2} (hcode : code = 0 ∨ code = 2) (s : State) :
    (complete code s).responseOk :=
  ⟨fun _ => ⟨rfl, rfl⟩, (fun h => by cases h), hcode⟩

theorem CoreInv.idle_of_seq {s : State} (hi : CoreInv s) (h : s.seq ≠ .push) :
    s.ser.txState = .idle :=
  by_contra fun hx => h (hi.push_iff.mpr hx)

/-- Without a push the serializer stays idle, whatever the sequencer does but starting one. -/
theorem CoreInv.seq_iff_of_idle {s u : State} (hi : CoreInv s) (h : s.seq ≠ .push)
    (hser : u.ser = s.ser) (hu : u.seq ≠ .push) :
    u.seq = .push ↔ u.ser.txState ≠ .idle ∧ u.ser.txLast = false := by
  simp [hu, hser, hi.idle_of_seq h]

/-- A command that has completed leaves a ready core (R229). -/
theorem CoreInv.of_complete {code : BitVec 2} {s u : State} (hi : CoreInv s)
    (hcode : code = 0 ∨ code = 2) (hser : u.ser = s.ser) (hpar : u.par = s.par) (hfb : u.fb = s.fb)
    (hdelay : u.delayCnt = s.delayCnt) (hend : s.ser.txState = .idle ∨ s.ser.txLast = true)
    (hheld : u.handle = .held) (himage : coordImage u.par u.coord = some u.fb) :
    CoreInv ((complete code u).serStep false) := by
  refine .of_serStep ?ser ?seq ((phaseOk_of_ready rfl).mpr ⟨rfl, hheld, rfl⟩)
    ((commandOk_of_none rfl).mpr ⟨rfl, himage⟩) (complete_responseOk hcode u) ?delay
  case ser =>
    have h := hi.serializer
    unfold State.serializerOk State.lineBit at h ⊢
    simpa [hser, hpar, hfb] using h
  case seq =>
    simp only [complete_seq, complete_ser, hser]
    obtain h | h := hend <;> simp [h]
  case delay =>
    rw [complete_delayCnt, complete_par, hdelay, hpar]
    exact hi.delay_le

/-! ### Reset -/

theorem coreInv_coreReset (s : State) : CoreInv s.coreReset where
  dout_iff := by simp [Serializer.reset]
  push_iff := by simp [Serializer.reset]
  serializer := ⟨rfl, rfl, rfl⟩
  phases := ⟨rfl, rfl, rfl, by simp⟩
  commands := ⟨rfl, rfl⟩
  response := responseOk_of_silent rfl rfl (.inl rfl)
  delay_le := Nat.zero_le _

/-- Settles O39: `State.reset` is a core in its reset state. -/
theorem coreInvAtReset : Obligations.CoreInvAtReset := coreInv_coreReset State.reset

/-! ### The phases -/

theorem CoreInv.initTick {s : State} (hi : CoreInv s) (hp : s.phase = .init) :
    CoreInv (initTick (clearResponse s)) := by
  obtain ⟨hcur, hcoord, hlast, hheld⟩ := (phaseOk_of_init hp).mp hi.phases
  have htiming := s.par.timing
  obtain ⟨hh, -, h⟩ | ⟨hh, -, h⟩ | ⟨hh, hs, -, h⟩ | ⟨hh, hs, -, h⟩ | ⟨hh, hs, hl, h⟩ |
      ⟨hh, hs, hl, h⟩ :=
    initTick_cases (clearResponse s) <;> simp only [clearResponse_handle] at hh <;> rw [h]
  · have hseq : s.seq = .idle := by simpa [hh] using hheld
    exact .of_serStep hi.serializer (hi.seq_iff_of_idle (by simp [hseq]) rfl (by simp))
      ((phaseOk_of_init (by exact hp)).mpr ⟨hcur, hcoord, hlast, by simp⟩) hi.commands hi.silent
      (show s.par.tLatch - 2 ≤ s.par.tFrame by omega)
  · have hseq : s.seq = .idle := by simpa [hh] using hheld
    exact .of_serStep hi.serializer (hi.seq_iff_of_idle (by simp [hseq]) rfl (by simp [hseq]))
      ((phaseOk_of_fatal rfl).mpr ⟨hcur, hcoord, hlast, hh, hseq⟩) hi.commands
      (responseOk_of_silent rfl rfl hi.lastRsp_code) hi.delay_le
  · have hseq : s.seq = .delay := hs
    exact .of_serStep hi.serializer (hi.seq_iff_of_idle (by simp [hseq]) rfl (by simp [hseq]))
      hi.phases hi.commands hi.silent ((Nat.sub_le _ _).trans hi.delay_le)
  · have hseq : s.seq = .delay := hs
    obtain ⟨hframe, -⟩ := (commandOk_of_none hcur).mp hi.commands
    exact .of_startPush (hi.idle_of_seq (by simp [hseq]))
      ((phaseOk_of_init (by exact hp)).mpr ⟨hcur, hcoord, hlast, by simp [hh]⟩)
      ((commandOk_of_none (by exact hcur)).mpr ⟨hframe, by simp [hcoord, coordImage]⟩) hi.silent
      hi.delay_le
  · have hlast : s.ser.txLast = true := hl
    exact .of_serStep hi.serializer (by simp [hlast])
      ((phaseOk_of_ready rfl).mpr ⟨hcur, hh, rfl⟩) hi.commands
      (responseOk_of_silent rfl rfl hi.lastRsp_code) hi.delay_le
  · have hlast : s.ser.txLast = false := hl
    exact .of_serStep hi.serializer (by simp [hlast, hi.push_iff]) hi.phases hi.commands hi.silent
      hi.delay_le

theorem coordImage_showAnim {p : Params} {i : Byte} {a : Animation} (ha : animation p i = some a) :
    coordImage p (.showAnim i) = a.getLast? := by
  simp [coordImage, ha]

/-- A `PLAY` shows a frame of an existing animation (R204). -/
theorem CoreInv.animation_of_play {s : State} (hi : CoreInv s) {i : Byte}
    (hcur : s.cur = some (.play i)) :
    s.coord = .showAnim i ∧ ∃ a, animation s.par i = some a ∧ a[s.frameIdx]? = some s.fb := by
  obtain ⟨hcoord, hframe⟩ := (commandOk_of_play hcur).mp hi.commands
  exact ⟨hcoord, animFrame_eq_some.mp hframe⟩

/-- The delay after a frame ends: the next frame, or the response after the last (R204, R207). -/
theorem CoreInv.afterDelay {s t : State} (hi : CoreInv s) (hp : s.phase = .busy)
    (hs : s.seq = .delay) (h : afterDelay (clearResponse s) = .next t) : CoreInv t := by
  obtain ⟨hheld, -, -, hplay⟩ := (phaseOk_of_busy hp).mp hi.phases
  obtain ⟨i, hcur⟩ := hplay hs
  obtain ⟨hcoord, a, ha, hframe⟩ := hi.animation_of_play hcur
  have hidle := hi.idle_of_seq (by simp [hs])
  obtain ⟨hk, h'⟩ | ⟨hk, h'⟩ := afterDelay_of_play (s := clearResponse s) hcur ha <;>
    obtain rfl := Host.Outcome.next.inj (h'.symm.trans h)
  · exact .of_startPush hidle
      ((phaseOk_of_busy (by exact hp)).mpr ⟨hheld, by simp, by simp [hcur], by simp⟩)
      ((commandOk_of_play (by exact hcur)).mpr
        ⟨hcoord, animFrame_eq_some.mpr ⟨a, ha, List.getElem?_eq_getElem hk⟩⟩)
      hi.silent hi.delay_le
  · obtain ⟨hlt, -⟩ := List.getElem?_eq_some_iff.mp hframe
    have hlast : a.length - 1 = s.frameIdx := by
      simp only [clearResponse_frameIdx] at hk
      omega
    refine hi.of_complete (.inl rfl) rfl rfl rfl rfl (.inl hidle) hheld ?_
    simp only [clearResponse_par, clearResponse_coord, clearResponse_fb]
    rw [hcoord, coordImage_showAnim ha, List.getLast?_eq_getElem?, hlast, hframe]

theorem afterPush_of_play {s : State} {i : Byte} (hcur : s.cur = some (.play i)) :
    afterPush s = { s with seq := .delay, delayCnt := s.par.tFrame - 1 } := by
  simp [afterPush, hcur]

theorem afterPush_of_character {s : State} (hcur : ∀ i, s.cur ≠ some (.play i)) :
    afterPush s = complete rspOk s := by
  unfold afterPush
  split
  · exact absurd ‹_› (hcur _)
  · rfl

/-- The push of a frame ends: the delay after a frame of a `PLAY`, or the response (R205, R229). -/
theorem CoreInv.afterPush {s : State} (hi : CoreInv s) (hp : s.phase = .busy)
    (hl : s.ser.txLast = true) : CoreInv ((afterPush (clearResponse s)).serStep false) := by
  obtain ⟨hheld, -, hsome, -⟩ := (phaseOk_of_busy hp).mp hi.phases
  by_cases hplay : ∃ i, s.cur = some (.play i)
  · obtain ⟨i, hcur⟩ := hplay
    rw [afterPush_of_play (by exact hcur)]
    exact .of_serStep hi.serializer (by simp [hl])
      ((phaseOk_of_busy (by exact hp)).mpr ⟨hheld, by simp, hsome, fun _ => ⟨i, hcur⟩⟩)
      hi.commands hi.silent (Nat.sub_le _ _)
  · have hchar (i : Byte) : s.cur ≠ some (.play i) := fun hcur => hplay ⟨i, hcur⟩
    rw [afterPush_of_character (by exact hchar)]
    exact hi.of_complete (.inl rfl) rfl rfl rfl rfl (.inr hl) hheld
      (coordImage_of_commandOk hi.commands hchar)

theorem CoreInv.busyTick {s t : State} (hi : CoreInv s) (hp : s.phase = .busy)
    (h : busyTick (clearResponse s) = .next t) : CoreInv t := by
  obtain ⟨-, hl, rfl⟩ | ⟨-, hl, rfl⟩ | ⟨hs, -, rfl⟩ | ⟨hs, -, hd⟩ := busyTick_cases h
  · have hlast : s.ser.txLast = false := hl
    exact .of_serStep hi.serializer (by simp [hlast, hi.push_iff]) hi.phases hi.commands hi.silent
      hi.delay_le
  · exact hi.afterPush hp hl
  · have hseq : s.seq = .delay := hs
    exact .of_serStep hi.serializer (hi.seq_iff_of_idle (by simp [hseq]) rfl (by simp [hseq]))
      hi.phases hi.commands hi.silent ((Nat.sub_le _ _).trans hi.delay_le)
  · exact hi.afterDelay hp hs hd

/-- A step in which the sequencer does nothing, out of an idle sequencer. -/
theorem CoreInv.wait {s : State} (hi : CoreInv s) (hs : s.seq = .idle) :
    CoreInv ((clearResponse s).serStep false) :=
  .of_serStep hi.serializer (hi.seq_iff_of_idle (by simp [hs]) rfl (by simp [hs])) hi.phases
    hi.commands hi.silent hi.delay_le

/-- A ready core accepts a command (R30, R221). -/
theorem CoreInv.exec {w : CmdWord} {s t : State} (hi : CoreInv s) (hp : s.phase = .ready)
    (h : exec (decodeCommand w) (clearResponse s) = .next t) : CoreInv t := by
  obtain ⟨hcur, hheld, hs⟩ := (phaseOk_of_ready hp).mp hi.phases
  have hidle := hi.idle_of_seq (by simp [hs])
  obtain ⟨⟨m, c, co, rfl⟩, hcmd⟩ | ⟨code, hcode, rfl⟩ := exec_decodeCommand_cases h
  · exact .of_startPush hidle
      ((phaseOk_of_busy rfl).mpr ⟨hheld, by simp, by simp, by simp⟩) hcmd
      (responseOk_of_silent rfl rfl hi.lastRsp_code) hi.delay_le
  · obtain ⟨-, himage⟩ := (commandOk_of_none hcur).mp hi.commands
    exact hi.of_complete hcode rfl rfl rfl rfl (.inl hidle) hheld himage

theorem CoreInv.coreStep {s t : State} (hi : CoreInv s) (h : coreStep s = .next t) : CoreInv t := by
  obtain ⟨hp, rfl⟩ | ⟨hp, -, rfl⟩ | ⟨hp, -, he⟩ | ⟨hp, hb⟩ | ⟨hp, rfl⟩ := coreStep_cases h
  · exact hi.initTick hp
  · exact hi.wait (hi.seq_idle_of_ready hp)
  · exact hi.exec hp he
  · exact hi.busyTick hp hb
  · obtain ⟨-, -, -, -, hs⟩ := (phaseOk_of_fatal hp).mp hi.phases
    exact hi.wait hs

theorem CoreInv.step {s t : State} (hi : CoreInv s) (h : step s = .next t) : CoreInv t := by
  obtain ⟨-, rfl⟩ | ⟨-, c, hc, rfl⟩ := step_next_iff.mp h
  · exact (coreInv_coreReset s).enter s
  · exact (hi.coreStep hc).enter s

/-- Settles O40: a step is one of reset, or one of the core in one of its phases. -/
theorem coreInvKept : Obligations.CoreInvKept := fun _ _ hi h => hi.step h

/-! ### No state of the invariant is stuck (R321) -/

/-- A delay in `P_BUSY` is one of a `PLAY` of an existing animation, so something follows it. -/
theorem CoreInv.busyTick_next {s : State} (hi : CoreInv s) (hp : s.phase = .busy) :
    ∃ t, Machine.busyTick (clearResponse s) = .next t := by
  obtain ⟨-, hseq, -, hplay⟩ := (phaseOk_of_busy hp).mp hi.phases
  cases hs : s.seq with
  | idle => exact absurd hs hseq
  | push => exact ⟨_, busyTick_of_push (by exact hs)⟩
  | delay =>
    rw [busyTick_of_delay (by exact hs)]
    split_ifs
    · exact ⟨_, rfl⟩
    · obtain ⟨i, hcur⟩ := hplay hs
      obtain ⟨-, a, ha, -⟩ := hi.animation_of_play hcur
      obtain ⟨hk, h⟩ | ⟨hk, h⟩ := afterDelay_of_play (s := clearResponse s) hcur ha <;>
        exact ⟨_, h⟩

theorem CoreInv.coreStep_next {s : State} (hi : CoreInv s) : ∃ t, Machine.coreStep s = .next t := by
  cases hp : s.phase with
  | init => exact ⟨_, coreStep_of_init hp⟩
  | ready =>
    cases hv : s.pins.cmdValid with
    | true => rw [coreStep_of_command hp hv]; exact exec_next _ _
    | false => exact ⟨_, coreStep_of_wait hp hv⟩
  | busy => rw [coreStep_of_busy hp]; exact hi.busyTick_next hp
  | fatal => exact ⟨_, coreStep_of_fatal hp⟩

/-- Settles O43: reset always goes on, and so does the core in every phase. -/
theorem neverStuck : Obligations.NeverStuck := by
  intro s hi
  cases hr : s.entersReset with
  | true => exact ⟨_, step_of_reset hr⟩
  | false =>
    obtain ⟨t, ht⟩ := hi.coreStep_next
    exact ⟨_, step_of_core hr ht⟩

end Sys2Proof.Machine
end

section
/-! Proofs about the bits of a frame (R69): where each word stands in them, and what a latch makes of
them (R172). -/

namespace Sys2Proof.Machine

/-- In a concatenation of lists of length `n`, entry `j` of list `i` stands at `n * i + j`. -/
theorem getElem?_flatMap_of_length {α β : Type} {f : α → List β} {n : Nat}
    (hf : ∀ a, (f a).length = n) (l : List α) (i : Nat) {j : Nat} (hj : j < n) :
    (l.flatMap f)[n * i + j]? = l[i]?.bind fun a => (f a)[j]? := by
  induction l generalizing i with
  | nil => simp
  | cons a l ih =>
    rw [List.flatMap_cons]
    cases i with
    | zero => rw [List.getElem?_append_left (by rw [hf]; omega)]; simp
    | succ i =>
      have hge : n * (i + 1) + j = n * i + j + (f a).length := by rw [hf]; ring
      rw [hge, List.getElem?_append_right (by omega), Nat.add_sub_cancel, ih]
      simp

theorem wordBits_getElem? (w : Word) {j : Nat} (hj : j < 24) :
    (wordBits w)[j]? = some (w.getLsbD (23 - j)) := by
  simp [wordBits, hj]

/-- The bit sent `j`-th of the word at chain position `pos` (R69). -/
theorem frameBits_getElem? (p : Params) (fb : Pattern) (pos : Fin 25) {j : Nat} (hj : j < 24) :
    (frameBits p fb)[24 * pos.val + j]? = some ((frameWord p fb pos).getLsbD (23 - j)) := by
  rw [frameBits, getElem?_flatMap_of_length (fun _ => wordBits_length _) _ _ hj]
  simp [wordBits_getElem? _ hj]

@[simp] theorem frameBits_length (p : Params) (fb : Pattern) : (frameBits p fb).length = 600 := by
  simp [frameBits]

theorem frameBits_ne_nil (p : Params) (fb : Pattern) : frameBits p fb ≠ [] := fun h => by
  have := frameBits_length p fb
  simp [h] at this

theorem frameBits_word (p : Params) (fb : Pattern) (pos : Fin 25) :
    ((frameBits p fb).drop (24 * pos.val)).take 24 = wordBits (frameWord p fb pos) := by
  apply List.ext_getElem?
  intro j
  by_cases hj : j < 24
  · rw [List.getElem?_take_of_lt hj, List.getElem?_drop, frameBits_getElem? p fb pos hj,
      wordBits_getElem? _ hj]
  · rw [List.getElem?_take_eq_none (by omega),
      List.getElem?_eq_none (by rw [wordBits_length]; omega)]

theorem wordOfBits_wordBits (w : Word) : wordOfBits (wordBits w) = w := by
  apply BitVec.eq_of_getLsbD_eq
  intro i hi
  rw [wordOfBits_getLsbD _ hi, List.getD_eq_getElem?_getD,
    List.getElem?_reverse (by rw [wordBits_length]; exact hi), wordBits_length,
    wordBits_getElem? w (by omega), Option.getD_some]
  congr 1
  omega

/-- A latch of a whole frame makes every LED show its word (R172, R175). -/
theorem latch_of_frameBits {p : Params} {fb : Pattern} {c : Chain} (h : c.bits = frameBits p fb)
    (free : Nat) (pos : Fin 25) : (c.latch free).display[pos] = frameWord p fb pos := by
  rw [latch_display, latchedWord_complete (by rw [h, frameBits_length]; omega), h, frameBits_word,
    wordOfBits_wordBits]

/-- The bit on the line is the next of the frame after those before it (R25, R69). -/
theorem frameBits_take_lineBit {s : State} (hword : s.ser.shreg = frameWord s.par s.fb s.ser.pos) :
    (frameBits s.par s.fb).take (24 * s.ser.pos.val + (24 - s.ser.bitn.val)) =
      (frameBits s.par s.fb).take (24 * s.ser.pos.val + (23 - s.ser.bitn.val)) ++ [s.lineBit] := by
  have hbit := frameBits_getElem? s.par s.fb s.ser.pos (j := 23 - s.ser.bitn.val) (by omega)
  have hnumber : 23 - (23 - s.ser.bitn.val) = s.ser.bitn.val := by omega
  have hcount : 24 * s.ser.pos.val + (24 - s.ser.bitn.val) =
      24 * s.ser.pos.val + (23 - s.ser.bitn.val) + 1 := by omega
  rw [hcount, List.take_add_one, hbit, hnumber, State.lineBit, hword]
  rfl

end Sys2Proof.Machine
end

section
/-! Proofs about the invariant of the line and the LED chain: it holds at reset, every step keeps it
(R36, R156, R171, R172, R175), and what follows from it. -/

namespace Sys2Proof.Machine

/-! ### One tick of the chain -/

@[simp] theorem endPulse_hiRun (p : Params) (free : Nat) (c : Chain) :
    (c.endPulse p free).hiRun = 0 := by
  unfold Chain.endPulse
  split_ifs with h
  · exact h
  · rfl

/-- A low tick ends the high run and counts, and holds no bits once the run has reached `T_LATCH`. -/
theorem chain_tick_low_runs (p : Params) (free : Nat) (c : Chain) :
    (c.tick p free false).hiRun = 0 ∧ (c.tick p free false).loRun = c.loRun + 1 ∧
      (p.tLatch ≤ c.loRun + 1 → (c.tick p free false).bits = []) := by
  obtain ⟨h, hbits⟩ | ⟨h, -⟩ := chain_tick_low (p := p) (free := free) (c := c) <;> rw [h]
  · exact ⟨endPulse_hiRun p free c, rfl, hbits⟩
  · exact ⟨endPulse_hiRun p free c, rfl, fun _ => rfl⟩

/-- What the chain holds and shows after a whole frame: the frame's bits, or, once it has latched
them, nothing and the frame's words (R172, R175). -/
def Chain.HoldsFrame (p : Params) (fb : Pattern) (c : Chain) : Prop :=
  c.bits = frameBits p fb ∨ (c.bits = [] ∧ ∀ pos : Fin 25, c.display[pos] = frameWord p fb pos)

theorem Chain.HoldsFrame.tick {p : Params} {fb : Pattern} {c : Chain} (h : c.HoldsFrame p fb)
    (hrun : c.hiRun = 0) (free : Nat) : (c.tick p free false).HoldsFrame p fb := by
  obtain hbits | ⟨hbits, hshow⟩ := h
  · obtain ⟨h, -⟩ | ⟨h, -⟩ := chain_tick_low (p := p) (free := free) (c := c) <;>
      rw [h, endPulse_of_low hrun]
    · exact .inl hbits
    · exact .inr ⟨rfl, latch_of_frameBits hbits free⟩
  · rw [chain_tick_quiet hrun hbits]
    exact .inr ⟨hbits, hshow⟩

/-! ### The invariant by the state of the serializer and by the phase -/

theorem receptionOk_of_idle {s : State} (h : s.ser.txState = .idle) :
    s.receptionOk ↔ s.quietOk := by
  simp [State.receptionOk, h]

theorem receptionOk_of_high {s : State} (h : s.ser.txState = .high) :
    s.receptionOk ↔
      s.chain.bits = (frameBits s.par s.fb).take (24 * s.ser.pos.val + (23 - s.ser.bitn.val)) ∧
        s.chain.hiRun + s.ser.cnt = s.par.hi s.lineBit := by
  simp [State.receptionOk, h]

theorem receptionOk_of_low {s : State} (h : s.ser.txState = .low) :
    s.receptionOk ↔
      s.chain.bits = (frameBits s.par s.fb).take (24 * s.ser.pos.val + (24 - s.ser.bitn.val)) ∧
        s.chain.loRun + s.ser.cnt = s.par.lo s.lineBit := by
  simp [State.receptionOk, h]

theorem receptionOk_of_latch {s : State} (h : s.ser.txState = .latch) :
    s.receptionOk ↔
      s.chain.loRun + s.ser.cnt = s.par.lo s.lastBit + s.par.tLatch ∧
        s.chain.HoldsFrame s.par s.fb := by
  simp [State.receptionOk, h, Chain.HoldsFrame, State.showsFrame]

theorem quietOk_of_init {s : State} (h : s.phase = .init) :
    s.quietOk ↔ s.tick < s.chain.loRun ∧
      (s.handle = .held → s.par.tLatch ≤ s.chain.loRun + s.delayCnt) := by
  simp [State.quietOk, h]

theorem quietOk_of_fatal {s : State} (h : s.phase = .fatal) :
    s.quietOk ↔ s.tick < s.chain.loRun := by
  simp [State.quietOk, h]

theorem quietOk_of_ready {s : State} (h : s.phase = .ready) :
    s.quietOk ↔ s.par.lo s.lastBit + s.par.tLatch < s.chain.loRun ∧ s.showsFrame := by
  simp [State.quietOk, h]

theorem quietOk_of_busy {s : State} (h : s.phase = .busy) :
    s.quietOk ↔
      s.chain.loRun + s.delayCnt = s.par.lo s.lastBit + s.par.tLatch + s.par.tFrame ∧
        s.showsFrame := by
  simp [State.quietOk, h]

/-- The runs of the line follow `dout` at every step; only the reception is left to show. -/
theorem LineInv.of_reception {s c : State} (hpar : c.par = s.par) (h : (s.enter c).receptionOk) :
    LineInv (s.enter c) where
  high_run := by
    intro hd
    simp only [State.enter_ser] at hd
    simp [hd]
  low_run := by
    intro hd
    simp only [State.enter_ser] at hd
    obtain ⟨hhi, hlo, -⟩ := chain_tick_low_runs s.par s.freeIdx s.chainAhead
    rw [State.enter_chain, hd, hhi, hlo]
    exact ⟨rfl, Nat.succ_pos _⟩
  latched := by
    intro hlong
    have htwo := s.par.two_le_tLatch
    obtain ⟨-, hlo, hbits⟩ := chain_tick_low_runs s.par s.freeIdx s.chainAhead
    rw [State.enter_chain, State.enter_par, hpar] at hlong
    rw [State.enter_chain]
    cases hd : c.ser.dout with
    | true => simp [hd] at hlong; omega
    | false => rw [hd, hlo] at hlong; exact hbits hlong
  reception := h

theorem enter_chain_of_run {s c : State} {b : Bool} (hr : s.entersReset = false)
    (hd : c.ser.dout = b) : (s.enter c).chain = s.chain.tick s.par s.freeIdx b := by
  rw [State.enter_chain, State.chainAhead_of_run hr, hd]

/-- A reset leaves the line low and the start-up without its handle (R35, R290; log 6). -/
theorem lineInv_enter_coreReset {s : State} (hr : s.entersReset = true) :
    LineInv (s.enter s.coreReset) := by
  refine .of_reception rfl ((receptionOk_of_idle rfl).mpr ((quietOk_of_init rfl).mpr ⟨?_, ?_⟩))
  · obtain ⟨-, hlo, -⟩ := chain_tick_low_runs s.par s.freeIdx s.chainAhead
    have htick : (s.enter s.coreReset).tick = 0 := by simp [State.nextTick, hr]
    rw [htick, State.enter_chain]
    exact hlo ▸ Nat.succ_pos _
  · intro hheld
    cases hheld

/-- Settles O41: at power-up the line has been low for one tick, and the handle is not held. -/
theorem lineInvAtReset : Obligations.LineInvAtReset where
  high_run := by intro h; cases h
  low_run := fun _ => ⟨rfl, Nat.one_pos⟩
  latched := fun h => absurd h (by have := Params.default.two_le_tLatch; exact Nat.not_le.mpr this)
  reception := ⟨Nat.one_pos, fun h => by cases h⟩

/-! ### While nothing is sent -/

/-- The line is low outside `TX_HIGH` (R26). -/
theorem CoreInv.dout_eq_false {s : State} (hi : CoreInv s) {x : TxState} (hx : s.ser.txState = x)
    (hne : x ≠ .high) : s.ser.dout = false := by
  rw [← Bool.not_eq_true, hi.dout_iff, hx]
  exact hne

/-- A chain that has applied what it received only counts while the line stays low. -/
theorem LineInv.chain_enter_quiet {s c : State} (hl : LineInv s) (hr : s.entersReset = false)
    (hd : s.ser.dout = false) (hbits : s.chain.bits = []) (hc : c.ser.dout = false) :
    (s.enter c).chain = { s.chain with loRun := s.chain.loRun + 1 } := by
  obtain ⟨hrun, -⟩ := hl.low_run hd
  rw [enter_chain_of_run hr hc, chain_tick_quiet hrun hbits]

theorem LineInv.loRun_enter {s c : State} (hr : s.entersReset = false)
    (hc : c.ser.dout = false) : (s.enter c).chain.loRun = s.chain.loRun + 1 := by
  obtain ⟨-, hlo, -⟩ := chain_tick_low_runs s.par s.freeIdx s.chain
  rw [enter_chain_of_run hr hc, hlo]

theorem nextTick_of_run {s : State} (hr : s.entersReset = false) : s.nextTick = s.tick + 1 := by
  simp [State.nextTick, hr]

/-- The first tick of a push, after the chain has applied what it had received (R160, R171). -/
theorem LineInv.receptionOk_startPush {s u : State} (hl : LineInv s) (hi : CoreInv s) (m : Pattern)
    (hr : s.entersReset = false) (hidle : s.ser.txState = .idle) (hser : u.ser = s.ser)
    (hpar : u.par = s.par) (hlong : s.par.tLatch ≤ s.chain.loRun) :
    (s.enter (startPush m u)).receptionOk := by
  obtain ⟨hrun, -⟩ := hl.low_run (hi.dout_eq_false hidle (by decide))
  have hstart : (startPush m u).ser = pushStart s.par m := by
    rw [startPush_ser, hser, hpar, tick_start_of_idle hidle]
  have hhi := s.par.hi_pos ((frameWord s.par m 0).getLsbD 23)
  rw [receptionOk_of_high (by rw [State.enter_ser, hstart]; rfl),
    enter_chain_of_run (b := true) hr (by rw [hstart]; rfl), State.lineBit]
  simp only [State.enter_ser, hstart, State.enter_par, startPush_par, hpar, chain_tick_high, hrun,
    hl.latched hlong]
  refine ⟨rfl, ?_⟩
  change 0 + 1 + (s.par.hi _ - 1) = s.par.hi ((frameWord s.par m 0).getLsbD 23)
  omega

/-! ### While a push runs -/

/-- The core in the tick after one of a push that goes on. -/
def State.pushed (s : State) : State := (clearResponse s).serStep false

@[simp] theorem State.pushed_par (s : State) : s.pushed.par = s.par := rfl
@[simp] theorem State.pushed_fb (s : State) : s.pushed.fb = s.fb := rfl

theorem State.pushed_ser (s : State) : s.pushed.ser = s.ser.tick s.par s.fb false := rfl

/-- A symbol begins: the chain keeps its bits and the high run counts from 1 (R98, R171). -/
theorem LineInv.receptionOk_beginSymbol {s : State} {r : Serializer} (hl : LineInv s)
    (hr : s.entersReset = false) (hlow : s.ser.dout = false)
    (hser : s.pushed.ser = r.beginSymbol s.par)
    (hbits : s.chain.bits = (frameBits s.par s.fb).take (24 * r.pos.val + (23 - r.bitn.val))) :
    (s.enter s.pushed).receptionOk := by
  obtain ⟨hrun, -⟩ := hl.low_run hlow
  have hhi := s.par.hi_pos (r.shreg.getLsbD r.bitn)
  rw [receptionOk_of_high (by rw [State.enter_ser, hser]; rfl),
    enter_chain_of_run (b := true) hr (by rw [hser]; rfl), State.lineBit]
  simp only [State.enter_ser, hser, State.enter_par, State.enter_fb, State.pushed_par,
    State.pushed_fb, chain_tick_high, hrun]
  refine ⟨hbits, ?_⟩
  change 0 + 1 + (s.par.hi (r.shreg.getLsbD r.bitn) - 1) = s.par.hi (r.shreg.getLsbD r.bitn)
  omega

theorem LineInv.receptionOk_of_high_tick {s : State} (hl : LineInv s) (hi : CoreInv s)
    (hr : s.entersReset = false) (hx : s.ser.txState = .high) :
    (s.enter s.pushed).receptionOk := by
  obtain ⟨hbits, hcnt⟩ := (receptionOk_of_high hx).mp hl.reception
  obtain ⟨-, hword⟩ := (serializerOk_of_high hx).mp hi.serializer
  obtain ⟨hlorun, -⟩ := hl.high_run (hi.dout_iff.mpr hx)
  obtain hc | hc := Nat.eq_zero_or_pos s.ser.cnt
  · have hser := s.pushed_ser.trans (tick_high_end hx hc)
    have hlo := s.par.lo_pos s.lineBit
    have hpulse := endPulse_of_nominal (p := s.par) (free := s.freeIdx) (c := s.chain)
      (b := s.lineBit) (by omega)
    have hchain := chain_tick_symbol (p := s.par) (free := s.freeIdx) (c := s.chain) (by
      rw [hpulse, List.getLastD_concat]; omega)
    rw [receptionOk_of_low (by rw [State.enter_ser, hser]), State.lineBit,
      enter_chain_of_run (b := false) hr (by rw [hser]), hchain, hpulse]
    simp only [State.enter_ser, hser, State.enter_par, State.enter_fb, State.pushed_par,
      State.pushed_fb]
    refine ⟨by rw [hbits, frameBits_take_lineBit hword], ?_⟩
    change s.chain.loRun + 1 + (s.par.lo s.lineBit - 1) = s.par.lo s.lineBit
    omega
  · have hser := s.pushed_ser.trans (tick_high_count hx hc)
    rw [receptionOk_of_high (by rw [State.enter_ser, hser]; exact hx),
      enter_chain_of_run (b := true) hr (by rw [hser]), State.lineBit]
    simp only [State.enter_ser, hser, State.enter_par, State.enter_fb, State.pushed_par,
      State.pushed_fb, chain_tick_high]
    refine ⟨hbits, ?_⟩
    change s.chain.hiRun + 1 + (s.ser.cnt - 1) = s.par.hi s.lineBit
    omega

/-- The last symbol of a frame ends: all 600 bits are received and the latch interval begins. -/
theorem LineInv.receptionOk_of_last_symbol {s : State} (hl : LineInv s) (hi : CoreInv s)
    (hr : s.entersReset = false) (hx : s.ser.txState = .low) (hc : s.ser.cnt = 0)
    (hb : s.ser.bitn.val = 0) (hp : s.ser.pos.val = 24) : (s.enter s.pushed).receptionOk := by
  obtain ⟨hbits, hcnt⟩ := (receptionOk_of_low hx).mp hl.reception
  obtain ⟨-, hword⟩ := (serializerOk_of_low hx).mp hi.serializer
  obtain ⟨hrun, -⟩ := hl.low_run (hi.dout_eq_false hx (by decide))
  have hser := s.pushed_ser.trans (tick_low_last hx hc hb hp)
  have htwo := s.par.two_le_tLatch
  have hlast : s.lineBit = s.lastBit := by
    have hpos : s.ser.pos = 24 := Fin.ext hp
    rw [State.lineBit, State.lastBit, hword, hb, hpos]
  have hframe : s.chain.HoldsFrame s.par s.fb := by
    rw [hp, hb, List.take_of_length_le (by rw [frameBits_length])] at hbits
    exact .inl hbits
  rw [receptionOk_of_latch (by rw [State.enter_ser, hser]), LineInv.loRun_enter hr (by rw [hser]),
    enter_chain_of_run (b := false) hr (by rw [hser])]
  refine ⟨?_, hframe.tick hrun s.freeIdx⟩
  simp only [State.enter_ser, hser, State.enter_par, State.pushed_par]
  change s.chain.loRun + 1 + (s.par.tLatch - 1) = s.par.lo s.lastBit + s.par.tLatch
  rw [← hlast]
  omega

theorem LineInv.receptionOk_of_low_tick {s : State} (hl : LineInv s) (hi : CoreInv s)
    (hr : s.entersReset = false) (hx : s.ser.txState = .low) :
    (s.enter s.pushed).receptionOk := by
  obtain ⟨hbits, hcnt⟩ := (receptionOk_of_low hx).mp hl.reception
  obtain ⟨-, hword⟩ := (serializerOk_of_low hx).mp hi.serializer
  have hlow := hi.dout_eq_false hx (by decide)
  obtain hc | hc := Nat.eq_zero_or_pos s.ser.cnt
  · obtain hb | hb := Nat.eq_zero_or_pos s.ser.bitn.val
    · obtain hp | hp := Nat.lt_or_eq_of_le (Nat.le_of_lt_succ s.ser.pos.isLt)
      · refine hl.receptionOk_beginSymbol hr hlow (tick_low_next_word hx hc hb hp) (hbits.trans ?_)
        rw [hb]
        rfl
      · exact hl.receptionOk_of_last_symbol hi hr hx hc hb hp
    · refine hl.receptionOk_beginSymbol hr hlow (tick_low_next_bit hx hc hb) (hbits.trans ?_)
      congr 1
      change 24 * s.ser.pos.val + (24 - s.ser.bitn.val) =
        24 * s.ser.pos.val + (23 - (s.ser.bitn.val - 1))
      omega
  · have hser := s.pushed_ser.trans (tick_low_count hx hc)
    obtain ⟨hrun, -⟩ := hl.low_run hlow
    have hchain := chain_tick_symbol (p := s.par) (free := s.freeIdx) (c := s.chain) (by
      rw [endPulse_of_low hrun, hbits, frameBits_take_lineBit hword, List.getLastD_concat]; omega)
    rw [receptionOk_of_low (by rw [State.enter_ser, hser]; exact hx),
      enter_chain_of_run (b := false) hr (by rw [hser]), hchain, endPulse_of_low hrun,
      State.lineBit]
    simp only [State.enter_ser, hser, State.enter_par, State.enter_fb, State.pushed_par,
      State.pushed_fb]
    refine ⟨hbits, ?_⟩
    change s.chain.loRun + 1 + (s.ser.cnt - 1) = s.par.lo s.lineBit
    omega

theorem LineInv.receptionOk_of_latch_count {s : State} (hl : LineInv s) (hi : CoreInv s)
    (hr : s.entersReset = false) (hx : s.ser.txState = .latch) (hc : 0 < s.ser.cnt) :
    (s.enter s.pushed).receptionOk := by
  obtain ⟨hcnt, hframe⟩ := (receptionOk_of_latch hx).mp hl.reception
  obtain ⟨hrun, -⟩ := hl.low_run (hi.dout_eq_false hx (by decide))
  have hser := s.pushed_ser.trans (tick_latch_count hx hc)
  rw [receptionOk_of_latch (by rw [State.enter_ser, hser]; exact hx),
    LineInv.loRun_enter hr (by rw [hser]), enter_chain_of_run (b := false) hr (by rw [hser])]
  refine ⟨?_, hframe.tick hrun s.freeIdx⟩
  simp only [State.enter_ser, hser, State.enter_par, State.pushed_par]
  change s.chain.loRun + 1 + (s.ser.cnt - 1) = s.par.lo s.lastBit + s.par.tLatch
  omega

/-- Until `tx_last` the reception goes on, symbol by symbol and then through the latch interval
(R160, R171, R172). -/
theorem LineInv.receptionOk_push {s : State} (hl : LineInv s) (hi : CoreInv s)
    (hr : s.entersReset = false) (hseq : s.seq = .push) (hlast : s.ser.txLast = false) :
    (s.enter s.pushed).receptionOk := by
  cases hx : s.ser.txState with
  | idle => exact absurd hx (hi.push_iff.mp hseq)
  | high => exact hl.receptionOk_of_high_tick hi hr hx
  | low => exact hl.receptionOk_of_low_tick hi hr hx
  | latch =>
    have hc : s.ser.cnt ≠ 0 := by simpa [Serializer.txLast, hx] using hlast
    exact hl.receptionOk_of_latch_count hi hr hx (Nat.pos_of_ne_zero hc)

/-! ### Quiet ticks: the line stays low from one tick to the next -/

/-- How the chain stands when the core enters a tick without a push: one low tick longer, and showing
what it showed. -/
def State.StaysQuiet (s t : State) : Prop :=
  t.ser.txState = .idle ∧ t.chain.loRun = s.chain.loRun + 1 ∧ t.chain.display = s.chain.display

theorem LineInv.staysQuiet_of_idle {s u : State} (hl : LineInv s) (hi : CoreInv s)
    (hr : s.entersReset = false) (hidle : s.ser.txState = .idle) (hser : u.ser = s.ser)
    (hlong : s.par.tLatch ≤ s.chain.loRun) : s.StaysQuiet (s.enter (u.serStep false)) := by
  have htick : (u.serStep false).ser = { s.ser with dout := false } := by
    rw [State.serStep_ser, hser, tick_idle_wait hidle]
  have hchain := hl.chain_enter_quiet hr (hi.dout_eq_false hidle (by decide)) (hl.latched hlong)
    (c := u.serStep false) (by rw [htick])
  exact ⟨by rw [State.enter_ser, htick]; exact hidle, by rw [hchain], by rw [hchain]⟩

/-- At `tx_last` the low run has reached `T_LATCH`, so the chain has latched the frame (R172, R175). -/
theorem LineInv.latched_at_txLast {s : State} (hl : LineInv s) (hlast : s.ser.txLast = true) :
    s.ser.txState = .latch ∧ s.ser.cnt = 0 ∧ s.chain.bits = [] ∧
      s.chain.loRun = s.par.lo s.lastBit + s.par.tLatch ∧ s.showsFrame := by
  obtain ⟨hx, hc⟩ : s.ser.txState = .latch ∧ s.ser.cnt = 0 := by
    simpa [Serializer.txLast] using hlast
  obtain ⟨hrun, hframe⟩ := (receptionOk_of_latch hx).mp hl.reception
  have hbits := hl.latched (by omega)
  obtain hall | ⟨-, hshow⟩ := hframe
  · exact absurd (hall.symm.trans hbits) (frameBits_ne_nil s.par s.fb)
  · exact ⟨hx, hc, hbits, by omega, hshow⟩

theorem LineInv.staysQuiet_of_txLast {s u : State} (hl : LineInv s) (hi : CoreInv s)
    (hr : s.entersReset = false) (hlast : s.ser.txLast = true) (hser : u.ser = s.ser) :
    s.StaysQuiet (s.enter (u.serStep false)) := by
  obtain ⟨hx, hc, hbits, -, -⟩ := hl.latched_at_txLast hlast
  have htick : (u.serStep false).ser = { s.ser with txState := .idle, dout := false } := by
    rw [State.serStep_ser, hser, tick_latch_end hx hc]
  have hchain := hl.chain_enter_quiet hr (hi.dout_eq_false hx (by decide)) hbits
    (c := u.serStep false) (by rw [htick])
  exact ⟨by rw [State.enter_ser, htick], by rw [hchain], by rw [hchain]⟩

theorem State.StaysQuiet.showsFrame {s c : State} (hq : s.StaysQuiet (s.enter c))
    (hshow : s.showsFrame) (hpar : c.par = s.par) (hfb : c.fb = s.fb) :
    (s.enter c).showsFrame := by
  obtain ⟨-, -, hdisplay⟩ := hq
  intro pos
  rw [hdisplay, State.enter_par, State.enter_fb, hpar, hfb]
  exact hshow pos

/-- Into a ready core the line has been low past the latch interval (R36, R156). -/
theorem receptionOk_ready_of_staysQuiet {s c : State} (hq : s.StaysQuiet (s.enter c))
    (hp : c.phase = .ready) (hpar : c.par = s.par) (hfb : c.fb = s.fb) (hshow : s.showsFrame)
    (hrun : s.par.lo s.lastBit + s.par.tLatch ≤ s.chain.loRun) : (s.enter c).receptionOk := by
  have ⟨hidle, hlo, _⟩ := hq
  rw [receptionOk_of_idle hidle, quietOk_of_ready (by exact hp), hlo, State.lastBit]
  simp only [State.enter_par, State.enter_fb, hpar, hfb]
  exact ⟨Nat.lt_succ_of_le hrun, hq.showsFrame hshow hpar hfb⟩

/-- Into an inter-frame delay (R205). -/
theorem receptionOk_busy_of_staysQuiet {s c : State} (hq : s.StaysQuiet (s.enter c))
    (hp : c.phase = .busy) (hpar : c.par = s.par) (hfb : c.fb = s.fb) (hshow : s.showsFrame)
    (hrun : s.chain.loRun + 1 + c.delayCnt =
      s.par.lo s.lastBit + s.par.tLatch + s.par.tFrame) : (s.enter c).receptionOk := by
  have ⟨hidle, hlo, _⟩ := hq
  rw [receptionOk_of_idle hidle, quietOk_of_busy (by exact hp), hlo, State.lastBit]
  simp only [State.enter_par, State.enter_fb, hpar, hfb]
  exact ⟨hrun, hq.showsFrame hshow hpar hfb⟩

/-! ### The phases -/

theorem LineInv.quiet {s : State} (hl : LineInv s) (hidle : s.ser.txState = .idle) : s.quietOk :=
  (receptionOk_of_idle hidle).mp hl.reception

/-- A tick of start-up in which the line stays low. -/
theorem LineInv.receptionOk_init {s u : State} (hl : LineInv s) (hr : s.entersReset = false)
    (hp : s.phase = .init) (hidle : s.ser.txState = .idle) (hser : u.ser = s.ser)
    (hquiet : u.phase = .init ∧
        (u.handle = .held → u.par.tLatch ≤ s.chain.loRun + 1 + u.delayCnt) ∨ u.phase = .fatal) :
    (s.enter (u.serStep false)).receptionOk := by
  obtain ⟨htick, -⟩ := (quietOk_of_init hp).mp (hl.quiet hidle)
  have hser' : (u.serStep false).ser = { s.ser with dout := false } := by
    rw [State.serStep_ser, hser, tick_idle_wait hidle]
  have hlo := LineInv.loRun_enter (s := s) hr (c := u.serStep false) (by rw [hser'])
  have htick' : (s.enter (u.serStep false)).tick = s.tick + 1 := nextTick_of_run hr
  rw [receptionOk_of_idle (by rw [State.enter_ser, hser']; exact hidle)]
  obtain ⟨hinit, hgap⟩ | hfatal := hquiet
  · rw [quietOk_of_init (by exact hinit), hlo, htick']
    exact ⟨by omega, hgap⟩
  · rw [quietOk_of_fatal (by exact hfatal), hlo, htick']
    omega

theorem LineInv.initTick {s : State} (hl : LineInv s) (hi : CoreInv s) (hr : s.entersReset = false)
    (hp : s.phase = .init) : (s.enter (initTick (clearResponse s))).receptionOk := by
  obtain ⟨-, -, -, hheld⟩ := (phaseOk_of_init hp).mp hi.phases
  obtain ⟨hh, -, h⟩ | ⟨hh, -, h⟩ | ⟨hh, hs, hd, h⟩ | ⟨hh, hs, hd, h⟩ | ⟨-, -, hlast, h⟩ |
      ⟨hh, hs, hlast, h⟩ :=
    initTick_cases (clearResponse s) <;> simp only [clearResponse_handle] at * <;> rw [h]
  · have hseq : s.seq = .idle := by simpa [hh] using hheld
    have hidle := hi.idle_of_seq (by simp [hseq])
    obtain ⟨htick, -⟩ := (quietOk_of_init hp).mp (hl.quiet hidle)
    refine hl.receptionOk_init hr hp hidle rfl (.inl ⟨hp, fun _ => ?_⟩)
    change s.par.tLatch ≤ s.chain.loRun + 1 + (s.par.tLatch - 2)
    omega
  · have hseq : s.seq = .idle := by simpa [hh] using hheld
    exact hl.receptionOk_init hr hp (hi.idle_of_seq (by simp [hseq])) rfl (.inr rfl)
  · have hseq : s.seq = .delay := hs
    have hidle := hi.idle_of_seq (by simp [hseq])
    obtain ⟨-, hgap⟩ := (quietOk_of_init hp).mp (hl.quiet hidle)
    refine hl.receptionOk_init hr hp hidle rfl (.inl ⟨hp, fun _ => ?_⟩)
    have hlong := hgap hh
    simp only [clearResponse_delayCnt, clearResponse_par] at hd ⊢
    omega
  · have hseq : s.seq = .delay := hs
    have hidle := hi.idle_of_seq (by simp [hseq])
    obtain ⟨-, hgap⟩ := (quietOk_of_init hp).mp (hl.quiet hidle)
    have hlong := hgap hh
    simp only [clearResponse_delayCnt] at hd
    exact hl.receptionOk_startPush hi Pattern.zero hr hidle rfl rfl (by omega)
  · obtain ⟨-, -, -, hrun, hshow⟩ := hl.latched_at_txLast hlast
    exact receptionOk_ready_of_staysQuiet (hl.staysQuiet_of_txLast hi hr hlast rfl) rfl rfl rfl
      hshow hrun.ge
  · have hseq : s.seq = .push := by
      have hne : s.seq ≠ .idle := hheld.mp hh
      cases hs' : s.seq with
      | idle => exact absurd hs' hne
      | push => rfl
      | delay => exact absurd hs' hs
    exact hl.receptionOk_push hi hr hseq hlast

/-- How long the line has been low in an inter-frame delay (R205). -/
theorem LineInv.busy_delay {s : State} (hl : LineInv s) (hi : CoreInv s) (hp : s.phase = .busy)
    (hs : s.seq = .delay) :
    s.chain.loRun + s.delayCnt = s.par.lo s.lastBit + s.par.tLatch + s.par.tFrame ∧
      s.par.lo s.lastBit + s.par.tLatch ≤ s.chain.loRun ∧ s.showsFrame := by
  obtain ⟨hrun, hshow⟩ := (quietOk_of_busy hp).mp (hl.quiet (hi.idle_of_seq (by simp [hs])))
  have := hi.delay_le
  exact ⟨hrun, by omega, hshow⟩

theorem LineInv.afterPush {s : State} (hl : LineInv s) (hi : CoreInv s) (hr : s.entersReset = false)
    (hp : s.phase = .busy) (hlast : s.ser.txLast = true) :
    (s.enter ((afterPush (clearResponse s)).serStep false)).receptionOk := by
  have htiming := s.par.timing
  obtain ⟨-, -, -, hrun, hshow⟩ := hl.latched_at_txLast hlast
  obtain h | h := afterPush_cases (clearResponse s) <;> rw [h]
  · refine receptionOk_busy_of_staysQuiet (hl.staysQuiet_of_txLast hi hr hlast rfl) hp rfl rfl
      hshow ?_
    change s.chain.loRun + 1 + (s.par.tFrame - 1) = _
    omega
  · exact receptionOk_ready_of_staysQuiet (hl.staysQuiet_of_txLast hi hr hlast rfl) rfl rfl rfl
      hshow hrun.ge

theorem LineInv.busyTick {s t : State} (hl : LineInv s) (hi : CoreInv s)
    (hr : s.entersReset = false) (hp : s.phase = .busy) (h : busyTick (clearResponse s) = .next t) :
    (s.enter t).receptionOk := by
  obtain ⟨hs, hlast, rfl⟩ | ⟨-, hlast, rfl⟩ | ⟨hs, hd, rfl⟩ | ⟨hs, hd, hafter⟩ := busyTick_cases h
  · exact hl.receptionOk_push hi hr hs hlast
  · exact hl.afterPush hi hr hp hlast
  · obtain ⟨hrun, hlong, hshow⟩ := hl.busy_delay hi hp hs
    have hidle := hi.idle_of_seq (s := s) (by simp [show s.seq = .delay from hs])
    refine receptionOk_busy_of_staysQuiet (hl.staysQuiet_of_idle hi hr hidle rfl (by omega)) hp
      rfl rfl hshow ?_
    simp only [clearResponse_delayCnt] at hd
    change s.chain.loRun + 1 + (s.delayCnt - 1) = _
    omega
  · obtain ⟨-, hlong, hshow⟩ := hl.busy_delay hi hp hs
    have hidle := hi.idle_of_seq (s := s) (by simp [show s.seq = .delay from hs])
    obtain ⟨m, k, rfl⟩ | rfl := afterDelay_cases hafter
    · exact hl.receptionOk_startPush hi m hr hidle rfl rfl (by omega)
    · exact receptionOk_ready_of_staysQuiet (hl.staysQuiet_of_idle hi hr hidle rfl (by omega))
        rfl rfl rfl hshow hlong

/-- Out of a ready core: a command starts a push, or the line stays low. -/
theorem LineInv.ready {s t : State} (hl : LineInv s) (hi : CoreInv s) (hr : s.entersReset = false)
    (hp : s.phase = .ready) (h : Machine.coreStep s = .next t) : (s.enter t).receptionOk := by
  have hidle := hi.txState_idle_of_ready hp
  obtain ⟨hrun, hshow⟩ := (quietOk_of_ready hp).mp (hl.quiet hidle)
  cases hv : s.pins.cmdValid with
  | true =>
    rw [coreStep_of_command hp hv] at h
    obtain ⟨⟨m, c, co, rfl⟩, -⟩ | ⟨code, -, rfl⟩ := exec_decodeCommand_cases h
    · exact hl.receptionOk_startPush hi m hr hidle rfl rfl (by omega)
    · exact receptionOk_ready_of_staysQuiet (hl.staysQuiet_of_idle hi hr hidle rfl (by omega))
        rfl rfl rfl hshow hrun.le
  | false =>
    rw [coreStep_of_wait hp hv] at h
    obtain rfl := Host.Outcome.next.inj h
    exact receptionOk_ready_of_staysQuiet (hl.staysQuiet_of_idle hi hr hidle rfl (by omega))
      hp rfl rfl hshow hrun.le

theorem LineInv.fatal {s : State} (hl : LineInv s) (hi : CoreInv s) (hr : s.entersReset = false)
    (hp : s.phase = .fatal) : (s.enter ((clearResponse s).serStep false)).receptionOk := by
  obtain ⟨-, -, -, -, hs⟩ := (phaseOk_of_fatal hp).mp hi.phases
  have hidle := hi.idle_of_seq (by simp [hs])
  have htick := (quietOk_of_fatal hp).mp (hl.quiet hidle)
  have hser : ((clearResponse s).serStep false).ser = { s.ser with dout := false } :=
    tick_idle_wait hidle
  rw [receptionOk_of_idle (by rw [State.enter_ser, hser]; exact hidle),
    quietOk_of_fatal (by exact hp), LineInv.loRun_enter hr (by rw [hser]), State.enter_tick,
    nextTick_of_run hr]
  omega

theorem LineInv.coreStep {s t : State} (hl : LineInv s) (hi : CoreInv s)
    (hr : s.entersReset = false) (h : coreStep s = .next t) : (s.enter t).receptionOk := by
  cases hp : s.phase with
  | init =>
    rw [coreStep_of_init hp] at h
    obtain rfl := Host.Outcome.next.inj h
    exact hl.initTick hi hr hp
  | ready => exact hl.ready hi hr hp h
  | busy => rw [coreStep_of_busy hp] at h; exact hl.busyTick hi hr hp h
  | fatal =>
    rw [coreStep_of_fatal hp] at h
    obtain rfl := Host.Outcome.next.inj h
    exact hl.fatal hi hr hp

/-- Settles O42: the runs follow `dout`, and the reception is kept in each phase. -/
theorem lineInvKept : Obligations.LineInvKept := by
  intro s t hi hl h
  obtain ⟨hr, rfl⟩ | ⟨hr, c, hc, rfl⟩ := step_next_iff.mp h
  · exact lineInv_enter_coreReset hr
  · exact .of_reception (coreStep_par hc) (hl.coreStep hi hr hc)

/-! ### What follows for frames and for the image -/

/-- Settles O45: `coord` names the Matrix in `FB`, and every LED shows its word of it. -/
theorem readyShowsImage : Obligations.ReadyShowsImage := by
  intro s hi hl hp
  obtain ⟨hcur, -, -⟩ := (phaseOk_of_ready hp).mp hi.phases
  obtain ⟨-, himage⟩ := (commandOk_of_none hcur).mp hi.commands
  obtain ⟨-, hshow⟩ := (quietOk_of_ready hp).mp (hl.quiet (hi.txState_idle_of_ready hp))
  exact ⟨s.fb, himage, imageOnBoard s.par s.fb s.chain hshow⟩

/-- Only a `start` takes an idle serializer out of `TX_IDLE` (R160). -/
theorem serStep_ne_high_of_idle {u : State} (h : u.ser.txState = .idle) :
    (u.serStep false).ser.txState ≠ .high := by
  rw [State.serStep_ser, tick_idle_wait h, h]
  simp

/-- Start-up sends its frame at the end of the leading gap (R293). -/
theorem LineInv.spacing_init {s : State} (hl : LineInv s) (hp : s.phase = .init)
    (hidle : s.ser.txState = .idle)
    (hhigh : (Machine.initTick (clearResponse s)).ser.txState = .high) :
    s.par.tLatch ≤ s.chain.loRun := by
  have hwait {u : State} (hu : u.ser = s.ser) : (u.serStep false).ser.txState ≠ .high :=
    serStep_ne_high_of_idle (hu ▸ hidle)
  obtain ⟨-, -, h⟩ | ⟨-, -, h⟩ | ⟨-, -, -, h⟩ | ⟨hh, -, hd, -⟩ | ⟨-, -, -, h⟩ | ⟨-, -, -, h⟩ :=
    initTick_cases (clearResponse s)
  case inr.inr.inr.inl =>
    obtain ⟨-, hgap⟩ := (quietOk_of_init hp).mp (hl.quiet hidle)
    have hlong := hgap hh
    simp only [clearResponse_delayCnt] at hd
    omega
  all_goals rw [h] at hhigh; exact absurd hhigh (hwait rfl)

/-- A busy core whose serializer is idle is in an inter-frame delay, and only its end sends. -/
theorem LineInv.spacing_busy {s t : State} (hl : LineInv s) (hi : CoreInv s) (hp : s.phase = .busy)
    (hidle : s.ser.txState = .idle) (h : Machine.busyTick (clearResponse s) = .next t)
    (hhigh : t.ser.txState = .high) :
    s.chain.loRun = s.par.lo s.lastBit + s.par.tLatch + s.par.tFrame := by
  have hpush : s.seq ≠ .push := fun hs => hi.push_iff.mp hs hidle
  obtain ⟨hs, -⟩ | ⟨hs, -⟩ | ⟨-, -, rfl⟩ | ⟨hs, hd, -⟩ := busyTick_cases h
  · exact absurd hs hpush
  · exact absurd hs hpush
  · exact absurd hhigh (serStep_ne_high_of_idle (by exact hidle))
  · obtain ⟨hrun, -, -⟩ := hl.busy_delay hi hp hs
    simp only [clearResponse_delayCnt] at hd
    omega

/-- Settles O44: a frame begins out of start-up, a ready core or a delay, each with its own run. -/
theorem spacingBetweenFrames : Obligations.SpacingBetweenFrames := by
  intro s t hi hl hr h hidle hhigh
  obtain ⟨hr', -⟩ | ⟨-, c, hc, rfl⟩ := step_next_iff.mp h
  · simp [hr] at hr'
  cases hp : s.phase with
  | init =>
    rw [coreStep_of_init hp] at hc
    obtain rfl := Host.Outcome.next.inj hc
    exact ⟨hl.spacing_init hp hidle hhigh, by simp, by simp⟩
  | ready =>
    obtain ⟨hrun, -⟩ := (quietOk_of_ready hp).mp (hl.quiet hidle)
    exact ⟨by omega, fun _ => hrun, by simp⟩
  | busy =>
    rw [coreStep_of_busy hp] at hc
    have hrun := hl.spacing_busy hi hp hidle hc hhigh
    exact ⟨by omega, by simp, fun _ => hrun⟩
  | fatal =>
    rw [coreStep_of_fatal hp] at hc
    obtain rfl := Host.Outcome.next.inj hc
    exact absurd hhigh (serStep_ne_high_of_idle (by exact hidle))

end Sys2Proof.Machine
end

section
/-! Proofs about the waveform: the serializer tick by tick through a symbol (R98), a word (R97, R99)
and a push (R147, R158, R160, R161). -/

namespace Sys2Proof.Machine

/-! ### Runs of the serializer -/

theorem ticks_add (p : Params) (fb : Pattern) (m n : Nat) (r : Serializer) :
    Serializer.ticks p fb (m + n) r = Serializer.ticks p fb n (Serializer.ticks p fb m r) := by
  induction m generalizing r with
  | zero => rw [Nat.zero_add, Serializer.ticks]
  | succ m ih => rw [Nat.succ_add, Serializer.ticks, Serializer.ticks, ih]

theorem ticks_succ (p : Params) (fb : Pattern) (n : Nat) (r : Serializer) :
    Serializer.ticks p fb (n + 1) r = (Serializer.ticks p fb n r).tick p fb false :=
  ticks_add p fb n 1 r

variable {p : Params} {fb : Pattern} {r : Serializer}

/-! ### A symbol (R98) -/

/-- The serializer at tick `k` of the symbol on the line: high ticks first, then low ones. -/
def Serializer.symbolAt (p : Params) (k : Nat) (r : Serializer) : Serializer :=
  if k < p.hi (r.shreg.getLsbD r.bitn) then
    { r with txState := .high, cnt := p.hi (r.shreg.getLsbD r.bitn) - 1 - k, dout := true }
  else { r with txState := .low, cnt := p.tBit - 1 - k, dout := false }

theorem symbolAt_of_high {k : Nat} (h : k < p.hi (r.shreg.getLsbD r.bitn)) :
    r.symbolAt p k =
      { r with txState := .high, cnt := p.hi (r.shreg.getLsbD r.bitn) - 1 - k, dout := true } :=
  if_pos h

theorem symbolAt_of_low {k : Nat} (h : p.hi (r.shreg.getLsbD r.bitn) ≤ k) :
    r.symbolAt p k = { r with txState := .low, cnt := p.tBit - 1 - k, dout := false } :=
  if_neg (Nat.not_lt.mpr h)

theorem symbolAt_dout (p : Params) (k : Nat) (r : Serializer) :
    (r.symbolAt p k).dout = decide (k < p.hi (r.shreg.getLsbD r.bitn)) := by
  unfold Serializer.symbolAt
  split_ifs with h
  · exact (decide_eq_true h).symm
  · exact (decide_eq_false h).symm

theorem symbolAt_txLast (p : Params) (k : Nat) (r : Serializer) :
    (r.symbolAt p k).txLast = false := by
  unfold Serializer.symbolAt
  split_ifs <;> rfl

/-- One tick inside a symbol. -/
theorem tick_symbolAt {k : Nat} (hk : k + 1 < p.tBit) :
    (r.symbolAt p k).tick p fb false = r.symbolAt p (k + 1) := by
  have hsum := p.hi_add_lo (r.shreg.getLsbD r.bitn)
  rcases Nat.lt_trichotomy (k + 1) (p.hi (r.shreg.getLsbD r.bitn)) with h | h | h
  · rw [symbolAt_of_high (by omega), symbolAt_of_high h,
      tick_high_count rfl (Nat.sub_pos_of_lt (by omega))]
    rfl
  · rw [symbolAt_of_high (by omega), symbolAt_of_low h.ge,
      tick_high_end rfl (show p.hi (r.shreg.getLsbD r.bitn) - 1 - k = 0 by omega)]
    have hcnt : p.lo (r.shreg.getLsbD r.bitn) - 1 = p.tBit - 1 - (k + 1) := by omega
    exact congrArg (fun n => { r with txState := .low, cnt := n, dout := false }) hcnt
  · rw [symbolAt_of_low (by omega), symbolAt_of_low (by omega),
      tick_low_count rfl (show 0 < p.tBit - 1 - k by omega)]
    rfl

theorem ticks_beginSymbol {k : Nat} (hk : k < p.tBit) :
    Serializer.ticks p fb k (r.beginSymbol p) = r.symbolAt p k := by
  induction k with
  | zero => rw [symbolAt_of_high (p.hi_pos _)]; rfl
  | succ k ih => rw [ticks_succ, ih (by omega), tick_symbolAt hk]

/-- Settles O14: the level at a tick of a symbol is the one of the symbol's part. -/
theorem symbolOnTheLine : Obligations.SymbolOnTheLine := by
  intro p fb r b k hk
  rw [ticks_beginSymbol hk, symbolAt_dout, putBit_lineBit]
  rfl

/-- The last tick of a symbol has no tick of it to go. -/
theorem ticks_symbol (p : Params) (fb : Pattern) (r : Serializer) :
    Serializer.ticks p fb p.tBit (r.beginSymbol p) =
      Serializer.tick p fb false { r with txState := .low, cnt := 0, dout := false } := by
  have hhi := p.hi_lt_tBit (r.shreg.getLsbD r.bitn)
  have hlast : p.tBit - 1 - (p.tBit - 1) = 0 := Nat.sub_self _
  conv_lhs => rw [show p.tBit = p.tBit - 1 + 1 by omega]
  rw [ticks_succ, ticks_beginSymbol (by omega), symbolAt_of_low (by omega), hlast]

/-! ### A word (R97, R99) -/

/-- The serializer at the symbol of bit `23 - j` of `w`, before its first tick. -/
def Serializer.atBit (w : Word) (j : Nat) (r : Serializer) : Serializer :=
  { r with shreg := w, bitn := ⟨23 - j, by omega⟩ }

/-- The symbols of a word follow one another, bit 23 first, without a gap. -/
theorem ticks_loadWord_symbols {w : Word} {j : Nat} (hj : j < 24) :
    Serializer.ticks p fb (p.tBit * j) (r.loadWord p w) = (r.atBit w j).beginSymbol p := by
  induction j with
  | zero => rfl
  | succ j ih =>
    rw [Nat.mul_succ, ticks_add, ih (by omega), ticks_symbol,
      tick_low_next_bit rfl rfl (show 0 < 23 - j by omega)]
    have hbit : 23 - j - 1 = 23 - (j + 1) := by omega
    simp only [Serializer.atBit, hbit]
    rfl

/-- The serializer at tick `k` of a word. -/
theorem ticks_loadWord {w : Word} {k : Nat} (hk : k < 24 * p.tBit) :
    Serializer.ticks p fb k (r.loadWord p w) =
      (r.atBit w (k / p.tBit)).symbolAt p (k % p.tBit) := by
  have hpos : 0 < p.tBit := Nat.zero_lt_of_lt (p.hi_lt_tBit false)
  conv_lhs => rw [← Nat.div_add_mod k p.tBit]
  rw [ticks_add, ticks_loadWord_symbols ((Nat.div_lt_iff_lt_mul hpos).mpr hk),
    ticks_beginSymbol (Nat.mod_lt _ hpos)]

theorem ticks_loadWord_dout {w : Word} {k : Nat} (hk : k < 24 * p.tBit) :
    (Serializer.ticks p fb k (r.loadWord p w)).dout =
      decide (k % p.tBit < p.hi (w.getLsbD (23 - k / p.tBit))) := by
  rw [ticks_loadWord hk, symbolAt_dout]
  rfl

/-- Settles O15: a tick of a word is a tick of one of its symbols. -/
theorem wordOnTheLine : Obligations.WordOnTheLine := fun _ _ _ _ _ hk => ticks_loadWord_dout hk

/-- The last tick of a word is the last of the symbol of its bit 0. -/
theorem ticks_word (p : Params) (fb : Pattern) (w : Word) (r : Serializer) :
    Serializer.ticks p fb (24 * p.tBit) (r.loadWord p w) =
      Serializer.tick p fb false
        { r with shreg := w, bitn := 0, txState := .low, cnt := 0, dout := false } := by
  rw [show 24 * p.tBit = p.tBit * 23 + p.tBit by ring, ticks_add,
    ticks_loadWord_symbols (by omega), ticks_symbol]
  rfl

/-! ### A push (R147, R158) -/

/-- The serializer at the first tick of the word at chain position `pos`. -/
def wordStart (p : Params) (fb : Pattern) (pos : Fin 25) : Serializer :=
  ({ Serializer.reset with pos := pos } : Serializer).loadWord p (frameWord p fb pos)

/-- The words of a frame follow one another in chain order. -/
theorem ticks_words {j : Nat} (hj : j < 25) :
    Serializer.ticks p fb (24 * p.tBit * j) (pushStart p fb) = wordStart p fb ⟨j, hj⟩ := by
  induction j with
  | zero => rfl
  | succ j ih =>
    rw [Nat.mul_succ, ticks_add, ih (by omega), wordStart, ticks_word,
      tick_low_next_word rfl rfl rfl (show j < 24 by omega)]
    rfl

/-- The serializer at a tick of a push's transmission, by word. -/
theorem ticks_pushStart {k : Nat} (hj : k / (24 * p.tBit) < 25) :
    Serializer.ticks p fb k (pushStart p fb) =
      Serializer.ticks p fb (k % (24 * p.tBit)) (wordStart p fb ⟨k / (24 * p.tBit), hj⟩) := by
  conv_lhs => rw [← Nat.div_add_mod k (24 * p.tBit)]
  rw [ticks_add, ticks_words hj]

/-- The registers at tick `m` of the latch interval (R158, R160). -/
def latchAt (p : Params) (fb : Pattern) (m : Nat) : Serializer where
  txState := .latch
  pos := 0
  bitn := 23
  cnt := p.tLatch - 1 - m
  shreg := frameWord p fb 24
  dout := false

theorem ticks_tTx (p : Params) (fb : Pattern) :
    Serializer.ticks p fb p.tTx (pushStart p fb) = latchAt p fb 0 := by
  have htx : p.tTx = 24 * p.tBit * 24 + 24 * p.tBit := by unfold ParamData.tTx; ring
  rw [htx, ticks_add, ticks_words (by omega), wordStart, ticks_word, tick_low_last rfl rfl rfl rfl]
  rfl

theorem ticks_latch {m : Nat} (hm : m < p.tLatch) :
    Serializer.ticks p fb (p.tTx + m) (pushStart p fb) = latchAt p fb m := by
  induction m with
  | zero => exact ticks_tTx p fb
  | succ m ih =>
    rw [← Nat.add_assoc, ticks_succ, ih (by omega),
      tick_latch_count rfl (show 0 < p.tLatch - 1 - m by omega)]
    rfl

/-- After `T_PUSH` ticks the serializer is idle, at position 0 and bit 23. -/
theorem ticks_tPush (p : Params) (fb : Pattern) :
    Serializer.ticks p fb p.tPush (pushStart p fb) =
      { latchAt p fb 0 with txState := .idle, cnt := 0 } := by
  have htwo := p.two_le_tLatch
  have hlast : p.tLatch - 1 - (p.tLatch - 1) = 0 := Nat.sub_self _
  have hpush : p.tPush = p.tTx + (p.tLatch - 1) + 1 := by unfold ParamData.tPush; omega
  rw [hpush, ticks_succ, ticks_latch (by omega), tick_latch_end rfl hlast]
  simp only [latchAt, hlast]

/-- Whether tick `k` of a push is one of transmission or of the latch interval. -/
theorem tPush_cases {k : Nat} (hk : k < p.tPush) : k < p.tTx ∨ ∃ m < p.tLatch, k = p.tTx + m := by
  unfold ParamData.tPush at hk
  by_cases h : k < p.tTx
  · exact .inl h
  · exact .inr ⟨k - p.tTx, by omega, by omega⟩

theorem wordIndex_lt {k : Nat} (hk : k < p.tTx) : k / (24 * p.tBit) < 25 := by
  have hpos : 0 < p.tBit := Nat.zero_lt_of_lt (p.hi_lt_tBit false)
  refine (Nat.div_lt_iff_lt_mul (by omega)).mpr (lt_of_lt_of_eq hk ?_)
  unfold ParamData.tTx
  ring

/-- The level of the line at tick `k` of a push (R147). -/
theorem ticks_pushStart_dout {k : Nat} (hk : k < p.tPush) :
    (Serializer.ticks p fb k (pushStart p fb)).dout = pushWave p fb k := by
  have hpos : 0 < p.tBit := Nat.zero_lt_of_lt (p.hi_lt_tBit false)
  obtain htx | ⟨m, hm, rfl⟩ := tPush_cases hk
  · have hj := wordIndex_lt htx
    have hword : k / (24 * p.tBit) = k / p.tBit / 24 := by
      rw [Nat.div_div_eq_div_mul, Nat.mul_comm]
    have hfin : (⟨k / (24 * p.tBit), hj⟩ : Fin 25) = Fin.ofNat 25 (k / p.tBit / 24) := by
      apply Fin.ext
      rw [Fin.val_ofNat, ← hword, Nat.mod_eq_of_lt hj]
    have hbit : k % (24 * p.tBit) / p.tBit = k / p.tBit % 24 := by
      rw [Nat.mul_comm, Nat.mod_mul_right_div_self]
    rw [ticks_pushStart hj, wordStart, ticks_loadWord_dout (Nat.mod_lt _ (by omega)),
      Nat.mod_mul_left_mod, hbit, hfin, pushWave, if_pos htx, frameBit]
  · rw [ticks_latch hm, pushWave, if_neg (by omega)]
    rfl

/-- Settles O16: a tick of a push is one of a word of the frame, or of the latch interval. -/
theorem pushWaveform : Obligations.PushWaveform := by
  intro p fb r k hidle hk
  rw [tick_start_of_idle hidle, ticks_pushStart_dout hk]

/-- `tx_last` comes at the last tick of the latch interval and not before (R160). -/
theorem ticks_pushStart_txLast_iff {k : Nat} (hk : k < p.tPush) :
    (Serializer.ticks p fb k (pushStart p fb)).txLast = true ↔ k + 1 = p.tPush := by
  have hpos : 0 < p.tBit := Nat.zero_lt_of_lt (p.hi_lt_tBit false)
  have htwo := p.two_le_tLatch
  obtain htx | ⟨m, hm, rfl⟩ := tPush_cases hk
  · rw [ticks_pushStart (wordIndex_lt htx), wordStart,
      ticks_loadWord (Nat.mod_lt _ (by omega)), symbolAt_txLast]
    simp only [Bool.false_eq_true, false_iff, ParamData.tPush]
    omega
  · rw [ticks_latch hm]
    simp only [Serializer.txLast, latchAt, BEq.rfl, Bool.true_and, beq_iff_eq, ParamData.tPush]
    omega

/-- Settles O17: transmission and latch interval make up the push, and its end is the idle state. -/
theorem pushLastsExactly : Obligations.PushLastsExactly := by
  intro p fb r hidle
  rw [tick_start_of_idle hidle, ticks_tPush]
  exact ⟨fun k hk => ticks_pushStart_txLast_iff hk, rfl, rfl, rfl⟩

end Sys2Proof.Machine
end

section
/-! Proofs about runs: how many ticks start-up (R293), a character and a `PLAY` take (R204, R205, R207,
R230), and `P_FATAL` until reset (R143, R252). -/

namespace Sys2Proof.Machine

/-! ### Runs of steps -/

theorem steps_add {m : Nat} (n : Nat) {s t : State} (h : steps m s = .next t) :
    steps (m + n) s = steps n t := by
  induction m generalizing s with
  | zero =>
    obtain rfl := Host.Outcome.next.inj h
    rw [Nat.zero_add]
  | succ m ih =>
    rw [Nat.succ_add, steps]
    rw [steps] at h
    cases hs : step s with
    | next u => rw [hs] at h; exact ih h
    | fault f => rw [hs] at h; cases h
    | refused r => rw [hs] at h; cases h

theorem steps_one (s : State) : steps 1 s = step s := by
  rw [steps]
  cases step s <;> rfl

theorem steps_succ {n : Nat} {s t u : State} (h : steps n s = .next t) (hu : step t = .next u) :
    steps (n + 1) s = .next u := by
  rw [steps_add 1 h, steps_one, hu]

theorem State.quietReset.nextPins {s : State} (hq : s.quietReset) : s.nextPins.rst = false := by
  obtain ⟨-, hplan⟩ := hq
  unfold State.nextPins
  split
  · next p rest hin => exact hplan p (by simp [hin])
  · rfl

theorem State.quietReset.entersReset {s : State} (hq : s.quietReset) : s.entersReset = false := by
  rw [State.entersReset, hq.nextPins, hq.1]
  rfl

theorem State.quietReset.enter {s : State} (hq : s.quietReset) (c : State) :
    (s.enter c).quietReset :=
  ⟨hq.nextPins, fun p hp => hq.2 p (List.mem_of_mem_tail hp)⟩

/-- What a running push or delay leaves as it is, the delay its count apart. -/
structure Control where
  par : Params
  fb : Pattern
  coord : Coord
  phase : Phase
  cur : Option Command
  frameIdx : Nat
  seq : SeqState
  delayCnt : Nat
  handle : Handle
  lastRsp : BitVec 2

def State.control (s : State) : Control where
  par := s.par
  fb := s.fb
  coord := s.coord
  phase := s.phase
  cur := s.cur
  frameIdx := s.frameIdx
  seq := s.seq
  delayCnt := s.delayCnt
  handle := s.handle
  lastRsp := s.lastRsp

theorem pushPhase_of_control {s t : State} (h : t.control = s.control) (hp : s.pushPhase) :
    t.pushPhase := by
  have hphase : t.phase = s.phase := congrArg Control.phase h
  have hhandle : t.handle = s.handle := congrArg Control.handle h
  rwa [State.pushPhase, hphase, hhandle]

/-! ### A push, tick by tick -/

/-- The first tick of a push, in a run without reset. -/
structure State.StartsPush (s : State) : Prop where
  phase : s.pushPhase
  seq : s.seq = .push
  ser : s.ser = pushStart s.par s.fb
  silent : s.rspValid = false
  noReset : s.quietReset

/-- `t` is tick `k` of the push that starts at `s`. -/
structure State.PushTick (s : State) (k : Nat) (t : State) : Prop where
  control : t.control = s.control
  ser : t.ser = Serializer.ticks s.par s.fb k (pushStart s.par s.fb)
  silent : t.rspValid = false
  noReset : t.quietReset

theorem startPush_startsPush {s u : State} (hq : s.quietReset) (m : Pattern)
    (hidle : u.ser.txState = .idle) (hp : u.pushPhase) (hv : u.rspValid = false) :
    (s.enter (startPush m u)).StartsPush where
  phase := hp
  seq := rfl
  ser := tick_start_of_idle hidle u.par m
  silent := hv
  noReset := hq.enter _

/-- A push runs through its `T_PUSH` ticks (R158, R230). -/
theorem State.StartsPush.steps {s : State} (h : s.StartsPush) {k : Nat} (hk : k < s.par.tPush) :
    ∃ t, steps k s = .next t ∧ s.PushTick k t := by
  induction k with
  | zero => exact ⟨s, rfl, rfl, h.ser, h.silent, h.noReset⟩
  | succ k ih =>
    obtain ⟨t, ht, hcontrol, hser, -, hq⟩ := ih (by omega)
    have hpar : t.par = s.par := congrArg Control.par hcontrol
    have hfb : t.fb = s.fb := congrArg Control.fb hcontrol
    have hseq : t.seq = .push := (congrArg Control.seq hcontrol).trans h.seq
    have hlast : t.ser.txLast = false := by
      rw [← Bool.not_eq_true, hser, ticks_pushStart_txLast_iff (by omega)]
      omega
    have hstep := step_of_core hq.entersReset
      (coreStep_of_push (pushPhase_of_control hcontrol h.phase) hseq hlast)
    refine ⟨_, steps_succ ht hstep, hcontrol, ?_, rfl, hq.enter _⟩
    rw [ticks_succ, ← hser, ← hpar, ← hfb]
    rfl

/-- The last tick of a push. -/
theorem State.StartsPush.last {s : State} (h : s.StartsPush) :
    ∃ t, Machine.steps (s.par.tPush - 1) s = .next t ∧ s.PushTick (s.par.tPush - 1) t ∧
      t.ser.txLast = true := by
  have htwo := s.par.two_le_tLatch
  have hpush : s.par.tLatch ≤ s.par.tPush := Nat.le_add_left _ _
  obtain ⟨t, ht, hpt⟩ := h.steps (k := s.par.tPush - 1) (by omega)
  refine ⟨t, ht, hpt, ?_⟩
  rw [hpt.ser, ticks_pushStart_txLast_iff (by omega)]
  omega

/-- The tick after the push: the step of the core at `tx_last`. -/
theorem State.StartsPush.steps_tPush {s : State} (h : s.StartsPush) :
    ∃ t, s.PushTick (s.par.tPush - 1) t ∧ t.ser.txLast = true ∧
      ∀ c, coreStep t = .next c → Machine.steps s.par.tPush s = .next (t.enter c) := by
  have htwo := s.par.two_le_tLatch
  have hpush : s.par.tLatch ≤ s.par.tPush := Nat.le_add_left _ _
  obtain ⟨t, ht, hpt, hlast⟩ := h.last
  refine ⟨t, hpt, hlast, fun c hc => ?_⟩
  rw [show s.par.tPush = s.par.tPush - 1 + 1 by omega]
  exact steps_succ ht (step_of_core hpt.noReset.entersReset hc)

/-- At `tx_last` of a command's push the core does what follows a push (R205, R229). -/
theorem coreStep_of_txLast {s : State} (hp : s.phase = .busy) (hs : s.seq = .push)
    (hlast : s.ser.txLast = true) :
    coreStep s = .next ((afterPush (clearResponse s)).serStep false) := by
  rw [coreStep_of_busy hp, busyTick_of_push (by exact hs), clearResponse_ser, hlast]
  rfl

theorem tick_txLast {r : Serializer} (h : r.txLast = true) (p : Params) (fb : Pattern) :
    (r.tick p fb false).txState = .idle ∧ (r.tick p fb false).dout = false := by
  obtain ⟨hx, hc⟩ : r.txState = .latch ∧ r.cnt = 0 := by simpa [Serializer.txLast] using h
  rw [tick_latch_end hx hc]
  exact ⟨rfl, rfl⟩

/-! ### A delay, tick by tick -/

/-- A tick of a delay, in a run without reset. -/
structure State.InDelay (s : State) : Prop where
  phase : s.pushPhase
  seq : s.seq = .delay
  idle : s.ser.txState = .idle
  low : s.ser.dout = false
  silent : s.rspValid = false
  noReset : s.quietReset

theorem coreStep_of_delay {s : State} (hp : s.pushPhase) (hs : s.seq = .delay)
    (hd : 0 < s.delayCnt) :
    coreStep s =
      .next (State.serStep false { clearResponse s with delayCnt := s.delayCnt - 1 }) := by
  obtain hp | ⟨hp, hh⟩ := hp
  · rw [coreStep_of_busy hp, busyTick_of_delay (by exact hs)]
    exact if_pos hd
  · rw [coreStep_of_init hp]
    simp [initTick, hh, hs, hd]

/-- A delay counts down to 0 (R205, R293). -/
theorem State.InDelay.steps {s : State} (h : s.InDelay) {k : Nat} (hk : k ≤ s.delayCnt) :
    ∃ t, steps k s = .next t ∧ t.InDelay ∧
      t.control = { s.control with delayCnt := s.delayCnt - k } := by
  induction k with
  | zero => exact ⟨s, rfl, h, rfl⟩
  | succ k ih =>
    obtain ⟨t, ht, hd, hcontrol⟩ := ih (by omega)
    have hcnt : t.delayCnt = s.delayCnt - k := congrArg Control.delayCnt hcontrol
    have hstep := step_of_core hd.noReset.entersReset
      (coreStep_of_delay hd.phase hd.seq (by omega))
    have hser := tick_idle_wait (p := t.par) (fb := t.fb) hd.idle
    refine ⟨_, steps_succ ht hstep,
      ⟨hd.phase, hd.seq, ?_, congrArg Serializer.dout hser, rfl, hd.noReset.enter _⟩, ?_⟩
    · exact (congrArg Serializer.txState hser).trans hd.idle
    · have hsucc : t.delayCnt - 1 = s.delayCnt - (k + 1) := by omega
      change { t.control with delayCnt := t.delayCnt - 1 } = _
      rw [hcontrol, hsucc]

/-! ### A character (R222, R223, R230) -/

/-- A character starts a push and is no `PLAY`. -/
theorem exec_character (ch : Byte) (s : State) :
    ∃ m c co, exec (decodeCommand (0#1 ++ ch)) s =
        .next (startPush m { accept c s with coord := co }) ∧ ∀ i, c ≠ .play i := by
  obtain ⟨hdigit, hother, -⟩ := operandsOfCommandWords
  by_cases h : 0x30 ≤ ch.toNat ∧ ch.toNat ≤ 0x39
  · obtain ⟨d, hd, hval⟩ := hdigit ch h.1 h.2
    rw [hd]
    exact ⟨_, _, _, execShowdigit_of_le (by omega) s, by simp⟩
  · rw [hother ch (by omega)]
    exact ⟨_, _, _, rfl, by simp⟩

/-- Settles O37: acceptance, the `T_PUSH` ticks of the push, and the response as it ends. -/
theorem characterResponseTime : Obligations.CharacterResponseTime := by
  intro s ch hi hp hq hv hc
  obtain ⟨m, c, co, hexec, hchar⟩ := exec_character ch (clearResponse s)
  have haccept := step_of_core hq.entersReset
    ((coreStep_of_command hp hv).trans (by rw [hc]; exact hexec))
  have hstart := startPush_startsPush (u := { accept c (clearResponse s) with coord := co }) hq m
    (hi.txState_idle_of_ready hp) (.inl rfl) rfl
  have hone := (steps_one s).trans haccept
  refine ⟨fun n hn0 hn => ?during, ?response⟩
  case during =>
    obtain ⟨t, ht, hpt⟩ := hstart.steps (k := n - 1) (show n - 1 < s.par.tPush by omega)
    rw [show n = 1 + (n - 1) by omega, steps_add _ hone]
    exact ⟨t, ht, congrArg Control.phase hpt.control, hpt.silent⟩
  case response =>
    obtain ⟨t, hpt, hlast, hnext⟩ := hstart.steps_tPush
    have hcur : t.cur = some c := congrArg Control.cur hpt.control
    have hcore := coreStep_of_txLast (congrArg Control.phase hpt.control)
      (congrArg Control.seq hpt.control) hlast
    rw [afterPush_of_character (by
      intro i hi
      exact hchar i (Option.some.inj (hcur.symm.trans hi)))] at hcore
    rw [steps_add _ hone]
    exact ⟨_, hnext _ hcore, rfl, rfl, rfl, rfl⟩

/-! ### A `PLAY` (R204, R205, R207, R230) -/

/-- The ticks from the start of one frame of a `PLAY` to the start of the next (R230). -/
def framePeriod (p : Params) : Nat := p.tPush + p.tFrame

theorem framePeriod_pos (p : Params) : 0 < framePeriod p := by
  obtain ⟨-, -, -, -, -, hframe⟩ := p.timing
  have htwo := p.two_le_tLatch
  unfold framePeriod
  omega

/-- The first tick of frame `k` of `PLAY i`, which is `m`. -/
structure State.FrameStart (p : Params) (i : Byte) (k : Nat) (m : Pattern) (s : State) : Prop where
  starts : s.StartsPush
  par : s.par = p
  phase : s.phase = .busy
  cur : s.cur = some (.play i)
  coord : s.coord = .showAnim i
  frameIdx : s.frameIdx = k
  fb : s.fb = m

variable {p : Params} {i : Byte} {k : Nat} {m : Pattern} {s : State} {a : Animation}

/-- After the push of a frame comes a delay of `T_FRAME` ticks. -/
theorem State.FrameStart.delay (h : s.FrameStart p i k m) :
    ∃ t, Machine.steps p.tPush s = .next t ∧ t.InDelay ∧
      t.control = { s.control with seq := .delay, delayCnt := p.tFrame - 1 } := by
  obtain ⟨t, hpt, hlast, hnext⟩ := h.starts.steps_tPush
  have hpar : t.par = p := (congrArg Control.par hpt.control).trans h.par
  have hphase : t.phase = .busy := (congrArg Control.phase hpt.control).trans h.phase
  have hcur : t.cur = some (.play i) := (congrArg Control.cur hpt.control).trans h.cur
  have hseq : t.seq = .push := (congrArg Control.seq hpt.control).trans h.starts.seq
  have hcore := coreStep_of_txLast hphase hseq hlast
  rw [afterPush_of_play (by exact hcur)] at hcore
  obtain ⟨hidle, hlow⟩ := tick_txLast hlast t.par t.fb
  have hsteps := hnext _ hcore
  rw [h.par] at hsteps
  refine ⟨_, hsteps, ⟨.inl hphase, rfl, hidle, hlow, rfl, hpt.noReset.enter _⟩, ?_⟩
  change { t.control with seq := .delay, delayCnt := t.par.tFrame - 1 } = _
  rw [hpt.control, hpar]

/-- While frame `k` is pushed and delayed the core is busy and gives no response. -/
theorem State.FrameStart.busy (h : s.FrameStart p i k m) {n : Nat} (hn : n < framePeriod p) :
    ∃ t, Machine.steps n s = .next t ∧ t.phase = .busy ∧ t.rspValid = false := by
  obtain hpush | hpush := Nat.lt_or_ge n p.tPush
  · obtain ⟨t, ht, hpt⟩ := h.starts.steps (k := n) (by rw [h.par]; exact hpush)
    exact ⟨t, ht, (congrArg Control.phase hpt.control).trans h.phase, hpt.silent⟩
  · obtain ⟨d, hd, hdelay, hcontrol⟩ := h.delay
    have hcnt : d.delayCnt = p.tFrame - 1 := congrArg Control.delayCnt hcontrol
    unfold framePeriod at hn
    obtain ⟨t, ht, hin, hcontrol'⟩ := hdelay.steps (k := n - p.tPush) (by omega)
    refine ⟨t, ?_, ?_, hin.silent⟩
    · rw [show n = p.tPush + (n - p.tPush) by omega, steps_add _ hd, ht]
    · rw [hcontrol] at hcontrol'
      exact (congrArg Control.phase hcontrol').trans h.phase

/-- The last tick of the delay after frame `k`, and the step out of it. -/
theorem State.FrameStart.delay_end (h : s.FrameStart p i k m) :
    ∃ t, t.InDelay ∧ t.control = { s.control with seq := .delay, delayCnt := 0 } ∧
      ∀ c, afterDelay (clearResponse t) = .next c →
        Machine.steps (framePeriod p) s = .next (t.enter c) := by
  have htiming := p.timing
  obtain ⟨d, hd, hdelay, hcontrol⟩ := h.delay
  have hcnt : d.delayCnt = p.tFrame - 1 := congrArg Control.delayCnt hcontrol
  obtain ⟨t, ht, hin, hcontrol'⟩ := hdelay.steps (k := p.tFrame - 1) hcnt.ge
  have hzero : t.control = { s.control with seq := .delay, delayCnt := 0 } := by
    rw [hcontrol', hcontrol, hcnt, Nat.sub_self]
  refine ⟨t, hin, hzero, fun c hc => ?_⟩
  have hphase : t.phase = .busy := (congrArg Control.phase hzero).trans h.phase
  have hstep : coreStep t = .next c := by
    rw [coreStep_of_busy hphase, busyTick_of_delay (by exact hin.seq)]
    exact (if_neg (by exact (congrArg Control.delayCnt hzero).not_gt)).trans hc
  have hperiod : framePeriod p = p.tPush + (p.tFrame - 1 + 1) := by unfold framePeriod; omega
  rw [hperiod, steps_add _ hd]
  exact steps_succ ht (step_of_core hin.noReset.entersReset hstep)

/-- After the delay the next frame starts, in order (R204). -/
theorem State.FrameStart.next (h : s.FrameStart p i k m) (ha : animation p i = some a)
    (hk : k + 1 < a.length) :
    ∃ t, Machine.steps (framePeriod p) s = .next t ∧ t.FrameStart p i (k + 1) a[k + 1] := by
  obtain ⟨t, hin, hcontrol, hnext⟩ := h.delay_end
  have hpar : t.par = p := (congrArg Control.par hcontrol).trans h.par
  have hcur : t.cur = some (.play i) := (congrArg Control.cur hcontrol).trans h.cur
  have hidx : t.frameIdx = k := (congrArg Control.frameIdx hcontrol).trans h.frameIdx
  subst hpar hidx
  obtain ⟨_, hafter⟩ | ⟨hlen, -⟩ := afterDelay_of_play (s := clearResponse t) hcur ha
  · exact ⟨_, hnext _ hafter,
      { starts := startPush_startsPush hin.noReset _ hin.idle hin.phase rfl
        par := rfl
        phase := (congrArg Control.phase hcontrol).trans h.phase
        cur := hcur
        coord := (congrArg Control.coord hcontrol).trans h.coord
        frameIdx := rfl
        fb := rfl }⟩
  · exact absurd hk (Nat.not_lt.mpr hlen)

/-- After the delay of the last frame comes the response (R207, R229). -/
theorem State.FrameStart.finish (h : s.FrameStart p i k m) (ha : animation p i = some a)
    (hk : a.length = k + 1) :
    ∃ t, Machine.steps (framePeriod p) s = .next t ∧ t.phase = .ready ∧ t.rspValid = true ∧
      t.rspCode = 0 ∧ t.lastRsp = 0 ∧ t.coord = .showAnim i := by
  obtain ⟨t, -, hcontrol, hnext⟩ := h.delay_end
  have hpar : t.par = p := (congrArg Control.par hcontrol).trans h.par
  have hcur : t.cur = some (.play i) := (congrArg Control.cur hcontrol).trans h.cur
  have hidx : t.frameIdx = k := (congrArg Control.frameIdx hcontrol).trans h.frameIdx
  subst hpar hidx
  obtain ⟨hlen, -⟩ | ⟨-, hafter⟩ := afterDelay_of_play (s := clearResponse t) hcur ha
  · exact absurd hk hlen.ne'
  · exact ⟨_, hnext _ hafter, rfl, rfl, rfl, rfl,
      (congrArg Control.coord hcontrol).trans h.coord⟩

/-- Every frame starts on time and in order. -/
theorem State.FrameStart.nth {f : Pattern} {n : Nat} (h : s.FrameStart p i 0 f)
    (ha : animation p i = some a) (hf : a[0]? = some f) (hn : n < a.length) :
    ∃ t, Machine.steps (n * framePeriod p) s = .next t ∧ t.FrameStart p i n a[n] := by
  induction n with
  | zero =>
    obtain ⟨_, rfl⟩ := List.getElem?_eq_some_iff.mp hf
    exact ⟨s, by rw [Nat.zero_mul]; rfl, h⟩
  | succ n ih =>
    obtain ⟨t, ht, hframe⟩ := ih (by omega)
    obtain ⟨u, hu, hnext⟩ := hframe.next ha hn
    exact ⟨u, by rw [Nat.succ_mul, steps_add _ ht, hu], hnext⟩

/-- The step that accepts `PLAY` of an animation with frames starts its first. -/
theorem CoreInv.play_accept {f : Pattern} {rest : Animation} (hi : CoreInv s)
    (hp : s.phase = .ready) (hq : s.quietReset) (hv : s.pins.cmdValid = true)
    (hc : s.pins.cmd = 1#1 ++ i) (ha : animation s.par i = some (f :: rest)) :
    ∃ t, Machine.steps 1 s = .next t ∧ t.FrameStart s.par i 0 f := by
  have hstep := step_of_play hq.entersReset hp hv hc (execPlay_of_frames ha)
  exact ⟨_, (steps_one s).trans hstep,
    { starts := startPush_startsPush hq f (hi.txState_idle_of_ready hp) (.inl rfl) rfl
      par := rfl
      phase := rfl
      cur := rfl
      coord := rfl
      frameIdx := rfl
      fb := rfl }⟩

/-- Settles O38: a tick of the `PLAY` lies in the period of one of its frames. -/
theorem playResponseTime : Obligations.PlayResponseTime := by
  intro s i a hi hp hq hv hc hrom hne
  have ha : animation s.par i = some a := hrom
  have hpos := framePeriod_pos s.par
  obtain ⟨f, rest, rfl⟩ := List.exists_cons_of_ne_nil hne
  obtain ⟨u, hu, hfirst⟩ := hi.play_accept hp hq hv hc ha
  have hframes {n : Nat} (hn : n < (f :: rest).length) := hfirst.nth ha rfl hn
  change (∀ n, 0 < n → n ≤ (f :: rest).length * framePeriod s.par → _) ∧ _
  refine ⟨fun n hn0 hn => ?busy, fun k hk => ?frame, ?response⟩
  case busy =>
    have hindex : (n - 1) / framePeriod s.par < (f :: rest).length :=
      (Nat.div_lt_iff_lt_mul hpos).mpr (by omega)
    obtain ⟨t, ht, hframe⟩ := hframes hindex
    obtain ⟨v, hv, hbusy⟩ := hframe.busy (Nat.mod_lt (n - 1) hpos)
    have htick : n =
        1 + ((n - 1) / framePeriod s.par * framePeriod s.par + (n - 1) % framePeriod s.par) := by
      rw [Nat.div_add_mod']; omega
    exact ⟨v, by rw [htick, steps_add _ hu, steps_add _ ht, hv], hbusy⟩
  case frame =>
    obtain ⟨t, ht, hframe⟩ := hframes hk
    refine ⟨t, (steps_add _ hu).trans ht, hframe.frameIdx, hframe.fb, hframe.coord, ?_⟩
    rw [hframe.starts.ser, hframe.par, hframe.fb]
  case response =>
    obtain ⟨t, ht, hframe⟩ := hframes (n := rest.length) (Nat.lt_succ_self _)
    obtain ⟨v, hv, hready⟩ := hframe.finish ha rfl
    refine ⟨v, (steps_add _ hu).trans ?_, hready⟩
    change Machine.steps ((rest.length + 1) * framePeriod s.par) u = _
    rw [Nat.succ_mul, steps_add _ ht, hv]

end Sys2Proof.Machine
end

section
/-! Proofs about what follows reset: start-up (R142, R293) and `P_FATAL` (R143, R252). -/

namespace Sys2Proof.Machine

variable {s t : State}

theorem coreReset_fields (h : s.coreReset = s) :
    s.phase = .init ∧ s.handle = .none ∧ s.ser = Serializer.reset ∧ s.coord = .idle ∧
      s.lastRsp = 0 :=
  ⟨(congrArg State.phase h).symm, (congrArg State.handle h).symm, (congrArg State.ser h).symm,
    (congrArg State.coord h).symm, (congrArg State.lastRsp h).symm⟩

/-! ### Start-up (R293) -/

/-- Start-up with the line held (R142, R293). -/
structure Control.StartingUp (c : Control) : Prop where
  phase : c.phase = .init
  handle : c.handle = .held
  coord : c.coord = .idle
  lastRsp : c.lastRsp = 0

theorem Control.StartingUp.status (h : t.control.StartingUp) : t.status = 0x0040 := by
  obtain ⟨hp, hh, hc, hl⟩ := h
  simp only [State.control] at hp hh hc hl
  simp only [State.status, State.cmdReady, hp, hc, hh, hl]
  decide

/-- The step from tick 0 to tick 1 takes the handle and begins the leading gap (R142, R293). -/
theorem coreReset_step_gap (h : s.coreReset = s) (hq : s.quietReset) (hw : s.pins.hwAvail = true) :
    ∃ t, steps 1 s = .next t ∧ t.InDelay ∧ t.delayCnt = s.par.tLatch - 2 ∧ t.par = s.par ∧
      t.control.StartingUp := by
  obtain ⟨hp, hh, hser, hcoord, hlast⟩ := coreReset_fields h
  have hidle : s.ser.txState = .idle := by rw [hser]; rfl
  have hcore : coreStep s = .next (State.serStep false
      { clearResponse s with handle := .held, seq := .delay, delayCnt := s.par.tLatch - 2 }) := by
    rw [coreStep_of_init hp]
    simp [initTick, acquireLine, hh, hw]
  have htick := tick_idle_wait (p := s.par) (fb := s.fb) hidle
  refine ⟨_, (steps_one s).trans (step_of_core hq.entersReset hcore), ?_, rfl, rfl,
    ⟨hp, rfl, hcoord, hlast⟩⟩
  exact ⟨.inr ⟨hp, rfl⟩, rfl, (congrArg Serializer.txState htick).trans hidle,
    congrArg Serializer.dout htick, rfl, hq.enter _⟩

/-- The leading gap: the line is low until tick `T_LATCH` (R293). -/
theorem coreReset_gap (h : s.coreReset = s) (hq : s.quietReset) (hw : s.pins.hwAvail = true)
    {n : Nat} (hn0 : 0 < n) (hn : n < s.par.tLatch) :
    ∃ t, steps n s = .next t ∧ t.InDelay ∧ t.delayCnt = s.par.tLatch - 1 - n ∧ t.par = s.par ∧
      t.control.StartingUp := by
  obtain ⟨u, hu, hdelay, hcnt, hpar, hup⟩ := coreReset_step_gap h hq hw
  obtain ⟨t, ht, hin, hcontrol⟩ := hdelay.steps (k := n - 1) (by omega)
  have hcnt' : t.delayCnt = u.delayCnt - (n - 1) := congrArg Control.delayCnt hcontrol
  refine ⟨t, ?_, hin, by omega, (congrArg Control.par hcontrol).trans hpar, ?_⟩
  · rw [show n = 1 + (n - 1) by omega, steps_add _ hu, ht]
  · rw [hcontrol]
    exact ⟨hup.phase, hup.handle, hup.coord, hup.lastRsp⟩

/-- At tick `T_LATCH` the push of the all-zero Matrix starts (R293). -/
theorem coreReset_first_frame (h : s.coreReset = s) (hq : s.quietReset)
    (hw : s.pins.hwAvail = true) :
    ∃ t, steps s.par.tLatch s = .next t ∧ t.StartsPush ∧ t.fb = Pattern.zero ∧ t.par = s.par ∧
      t.control.StartingUp := by
  have htwo := s.par.two_le_tLatch
  obtain ⟨t, ht, hin, hcnt, hpar, hup⟩ :=
    coreReset_gap h hq hw (n := s.par.tLatch - 1) (by omega) (by omega)
  have hzero : t.delayCnt = 0 := by omega
  have hphase : t.phase = .init := hup.phase
  have hhandle : t.handle = .held := hup.handle
  have hcore : coreStep t = .next (clear (clearResponse t)) := by
    rw [coreStep_of_init hphase]
    simp [initTick, hhandle, hin.seq, hzero]
  have hsteps := steps_succ ht (step_of_core hin.noReset.entersReset hcore)
  rw [show s.par.tLatch - 1 + 1 = s.par.tLatch by omega] at hsteps
  exact ⟨_, hsteps, startPush_startsPush hin.noReset Pattern.zero hin.idle hin.phase rfl, rfl, hpar,
    ⟨hup.phase, hup.handle, hup.coord, hup.lastRsp⟩⟩

/-- At the end of the first push the core is ready, without a response (R293). -/
theorem coreReset_ready (h : s.coreReset = s) (hq : s.quietReset) (hw : s.pins.hwAvail = true) :
    ∃ t, steps s.par.tInit s = .next t ∧ t.phase = .ready ∧ t.status = 0x0041 ∧
      t.rspValid = false := by
  obtain ⟨u, hu, hstart, -, hpar, hup⟩ := coreReset_first_frame h hq hw
  obtain ⟨t, hpt, hlast, hnext⟩ := hstart.steps_tPush
  have hup' : t.control.StartingUp := hpt.control ▸ hup
  have hphase : t.phase = .init := hup'.phase
  have hhandle : t.handle = .held := hup'.handle
  have hcoord : t.coord = .idle := hup'.coord
  have hrsp : t.lastRsp = 0 := hup'.lastRsp
  have hseq : t.seq = .push := (congrArg Control.seq hpt.control).trans hstart.seq
  have hcore : coreStep t = .next
      (State.serStep false { clearResponse t with seq := .idle, phase := .ready }) := by
    rw [coreStep_of_init hphase]
    simp [initTick, hhandle, hseq, hlast]
  have hsteps := hnext _ hcore
  rw [hpar] at hsteps
  refine ⟨_, (steps_add _ hu).trans hsteps, rfl, ?_, rfl⟩
  rw [State.status_enter]
  simp only [State.status, State.cmdReady, State.serStep_coord, State.serStep_handle,
    State.serStep_lastRsp, State.serStep_phase, clearResponse_coord, clearResponse_handle,
    clearResponse_lastRsp, hcoord, hhandle, hrsp]
  decide

/-- Settles O35: the leading gap, the push of the all-zero Matrix, and its end. -/
theorem startUpReachesReady : Obligations.StartUpReachesReady := by
  refine fun s h hq hw => ⟨fun n hn0 hn => ?_, coreReset_ready h hq hw⟩
  by_cases hgap : n < s.par.tLatch
  · obtain ⟨t, ht, hin, -, -, hup⟩ := coreReset_gap h hq hw hn0 hgap
    exact ⟨t, ht, hup.phase, hup.status, hin.silent, by rw [if_pos hgap, hin.low]⟩
  · obtain ⟨u, hu, hstart, hfb, hpar, hup⟩ := coreReset_first_frame h hq hw
    have hk : n - s.par.tLatch < s.par.tPush := by unfold ParamData.tInit at hn; omega
    obtain ⟨t, ht, hpt⟩ := hstart.steps (k := n - s.par.tLatch) (by rw [hpar]; exact hk)
    have hup' : t.control.StartingUp := hpt.control ▸ hup
    refine ⟨t, ?_, hup'.phase, hup'.status, hpt.silent, ?_⟩
    · rw [show n = s.par.tLatch + (n - s.par.tLatch) by omega, steps_add _ hu]
      simpa using ht
    · rw [if_neg hgap, hpt.ser, hpar, hfb, ticks_pushStart_dout hk]

/-! ### `P_FATAL` (R143, R252) -/

/-- The core in `P_FATAL`, every other element at its reset value. -/
def State.FatalCore (s : State) : Prop := s = { s.coreReset with phase := .fatal }

/-- Without the hardware the step from tick 0 leads to `P_FATAL` (R143). -/
theorem coreStep_of_unavailable (h : s.coreReset = s) (hw : s.pins.hwAvail = false) :
    coreStep s = .next { s with phase := .fatal } := by
  rw [coreStep_of_init (congrArg State.phase h).symm]
  have hinit : initTick (clearResponse s) =
      State.serStep false { clearResponse s with phase := .fatal } := by
    have hh : s.handle = .none := (congrArg State.handle h).symm
    simp [initTick, acquireLine, hh, hw]
  rw [hinit, ← h]
  rfl

/-- `P_FATAL` is a fixed point of the core (R252). -/
theorem State.FatalCore.coreStep (h : s.FatalCore) : coreStep s = .next s := by
  rw [coreStep_of_fatal (congrArg State.phase h), h]
  rfl

theorem State.FatalCore.enter (h : t.FatalCore) (s : State) : (s.enter t).FatalCore :=
  calc s.enter t = s.enter { t.coreReset with phase := .fatal } := congrArg s.enter h
    _ = { (s.enter { t.coreReset with phase := .fatal }).coreReset with phase := .fatal } := rfl
    _ = { (s.enter t).coreReset with phase := .fatal } :=
      congrArg (fun u => { (s.enter u).coreReset with phase := .fatal }) h.symm

theorem fatalCore_of_coreReset (h : s.coreReset = s) :
    ({ s with phase := .fatal } : State).FatalCore := by
  unfold State.FatalCore
  exact congrArg (fun u : State => { u with phase := .fatal }) h.symm

theorem steps_fatal (h : s.coreReset = s) (hq : s.quietReset) (hw : s.pins.hwAvail = false)
    (n : Nat) : ∃ t, steps (n + 1) s = .next t ∧ t.FatalCore ∧ t.quietReset := by
  induction n with
  | zero =>
    have hstep := step_of_core hq.entersReset (coreStep_of_unavailable h hw)
    exact ⟨_, (steps_one s).trans hstep, (fatalCore_of_coreReset h).enter s, hq.enter _⟩
  | succ n ih =>
    obtain ⟨t, ht, hfatal, hq'⟩ := ih
    exact ⟨_, steps_succ ht (step_of_core hq'.entersReset hfatal.coreStep), hfatal.enter t,
      hq'.enter _⟩

theorem State.FatalCore.status (h : s.FatalCore) : s.status = 0x0002 := by
  rw [h]
  simp only [State.status, State.cmdReady, State.coreReset_coord, State.coreReset_handle,
    State.coreReset_lastRsp]
  decide

/-- Settles O36: the first step leads into `P_FATAL`, and no later one out of it. -/
theorem fatalUntilReset : Obligations.FatalUntilReset := by
  refine fun s h hq hw => ⟨?_, fun n hn => ?_⟩
  · rw [← h]; exact coreReset_status s
  · obtain ⟨k, rfl⟩ := Nat.exists_eq_add_of_le' hn
    obtain ⟨t, ht, hfatal, -⟩ := steps_fatal h hq hw k
    have hphase : t.phase = .fatal := congrArg State.phase hfatal
    refine ⟨t, ht, hphase, congrArg State.handle hfatal, ?_, ?_, congrArg State.rspValid hfatal,
      hfatal.status, ?_, ?_⟩
    · exact congrArg (fun u : State => u.ser.dout) hfatal
    · rw [State.cmdReady_eq, hphase]; rfl
    · rw [State.faulted, hphase]; rfl
    · conv_rhs => rw [hfatal]
      rfl

end Sys2Proof.Machine
end
